-- ==== Sys2Proof/Word.lean ====
section
/-!
DEFINITION. The words of the machine: bytes, line levels, and the three output lines with the event one line write
leaves on the bus trace (spec/10_state.md rules R22 and R23).
-/

namespace Sys2Proof

/-- One byte of the Pixel Buffer, of a wire frame or of a display register (R50, R74, R30). -/
abbrev Byte := BitVec 8

/-- The level of a one-bit line: `true` is 1 and `false` is 0 (R22). -/
abbrev Level := Bool

/-- The three output lines (R22). -/
inductive Line where
  | clk
  | load
  | din
deriving DecidableEq, Repr

/-- One `LineWrite` event of the bus trace: the line and the level written (R12, R23). -/
structure BusEvent where
  line : Line
  level : Level
deriving DecidableEq, Repr

end Sys2Proof
end

