-- ==== Sys2Proof/Syntax.lean ====
section
/-!
DEFINITION. The instructions: one constructor per row of spec/opcode_table.json. The first five rows are 32-bit command
words of the host port (spec/30_encoding.md rules R70 to R78); the other sixteen are the 16-bit wire frames a display
controller decodes (rules R74, R80, R83).
-/

namespace Sys2Proof

/-- The rows of the opcode table. A wire frame carries the four address bits `ign` that its receiver ignores (R83)
beside its data byte, so that no bit of its word is lost. -/
inductive Instr where
  /-- CONFIGURE: send (REG, VAL) to every module (R105). -/
  | configure (reg val : BitVec 8)
  /-- RENDER: send the Pixel Buffer (R110). -/
  | render
  /-- NEW_GAME: start a fresh game (R169). -/
  | newGame
  /-- TICK: one game step with the two joystick readings (R190). -/
  | tick (h v : BitVec 10)
  /-- A command word that spells no command (R78, R232). -/
  | illegal (word : BitVec 32)
  /-- Receiver No-Op, address 0x0 (R136). -/
  | wNoop (ign : BitVec 4) (data : Byte)
  /-- Digit 0, address 0x1 (R80, R135). -/
  | wDigit0 (ign : BitVec 4) (data : Byte)
  /-- Digit 1, address 0x2 (R80, R135). -/
  | wDigit1 (ign : BitVec 4) (data : Byte)
  /-- Digit 2, address 0x3 (R80, R135). -/
  | wDigit2 (ign : BitVec 4) (data : Byte)
  /-- Digit 3, address 0x4 (R80, R135). -/
  | wDigit3 (ign : BitVec 4) (data : Byte)
  /-- Digit 4, address 0x5 (R80, R135). -/
  | wDigit4 (ign : BitVec 4) (data : Byte)
  /-- Digit 5, address 0x6 (R80, R135). -/
  | wDigit5 (ign : BitVec 4) (data : Byte)
  /-- Digit 6, address 0x7 (R80, R135). -/
  | wDigit6 (ign : BitVec 4) (data : Byte)
  /-- Digit 7, address 0x8 (R80, R135). -/
  | wDigit7 (ign : BitVec 4) (data : Byte)
  /-- Decode Mode, address 0x9 (R80, R135). -/
  | wDecode (ign : BitVec 4) (data : Byte)
  /-- Intensity, address 0xA (R80, R135). -/
  | wIntensity (ign : BitVec 4) (data : Byte)
  /-- Scan Limit, address 0xB (R80, R135). -/
  | wScanLimit (ign : BitVec 4) (data : Byte)
  /-- Shutdown, address 0xC (R80, R135). -/
  | wShutdown (ign : BitVec 4) (data : Byte)
  /-- Undefined address 0xD (R84, R137). -/
  | wReservedD (ign : BitVec 4) (data : Byte)
  /-- Undefined address 0xE (R84, R137). -/
  | wReservedE (ign : BitVec 4) (data : Byte)
  /-- Display Test, address 0xF (R80, R135). -/
  | wTest (ign : BitVec 4) (data : Byte)
deriving DecidableEq, Repr

/-- What the decoder is given: a word of the command port or a wire frame. The two never mix, because they reach two
different receivers (R70, R74). -/
inductive Encoded where
  | command (word : BitVec 32)
  | frame (word : BitVec 16)
deriving DecidableEq, Repr

end Sys2Proof
end

