-- ==== Sys2Proof/WellFormed.lean ====
section
/-!
DEFINITION. Which instructions are well formed. Every operand is a field of its own width (spec/30_encoding.md rule
R73), so the types leave one check: the word an ILLEGAL instruction carries spells no command (rule R78).
-/

namespace Sys2Proof

/-- R78: a reserved `OP`, or a must-be-zero bit of formats C, N and T (R71) that is not zero. -/
def isIllegalWord (w : BitVec 32) : Bool :=
  match (w.extractLsb' 28 4).toNat with
  | 1 => w.extractLsb' 16 12 != 0
  | 2 => w.extractLsb' 0 28 != 0
  | 3 => w.extractLsb' 0 28 != 0
  | 4 => w.extractLsb' 20 8 != 0
  | _ => true

/-- An instruction is well formed unless it is an ILLEGAL that carries the word of a command. -/
def Instr.wellFormed : Instr → Bool
  | .illegal w => isIllegalWord w
  | .configure _ _ => true
  | .render => true
  | .newGame => true
  | .tick _ _ => true
  | .wNoop _ _ => true
  | .wDigit0 _ _ => true
  | .wDigit1 _ _ => true
  | .wDigit2 _ _ => true
  | .wDigit3 _ _ => true
  | .wDigit4 _ _ => true
  | .wDigit5 _ _ => true
  | .wDigit6 _ _ => true
  | .wDigit7 _ _ => true
  | .wDecode _ _ => true
  | .wIntensity _ _ => true
  | .wScanLimit _ _ => true
  | .wShutdown _ _ => true
  | .wReservedD _ _ => true
  | .wReservedE _ _ => true
  | .wTest _ _ => true

end Sys2Proof
end

