-- ==== Sys2Proof/Decode.lean ====
section
/-!
DEFINITION. The decoder, total on every word, and the encoder, both written from the formats of spec/30_encoding.md
(rules R71 to R74, R80, R83) and the match and mask columns of spec/opcode_table.json.
-/

namespace Sys2Proof

/-- One row of the opcode table: a word belongs to it when its bits under `mask` are `value`. -/
structure OpRow (w : Nat) where
  mask : BitVec w
  value : BitVec w
deriving DecidableEq, Repr

/-- The word has the row's fixed bits. -/
def OpRow.matches {w : Nat} (r : OpRow w) (word : BitVec w) : Bool :=
  word &&& r.mask == r.value

/-- CONFIGURE, format C: OP = 1 and bits 27 to 16 zero (R71, R72). -/
def rowConfigure : OpRow 32 := ⟨0xFFFF0000#32, 0x10000000#32⟩
/-- RENDER, format N: OP = 2 and every other bit zero (R71, R72). -/
def rowRender : OpRow 32 := ⟨0xFFFFFFFF#32, 0x20000000#32⟩
/-- NEW_GAME, format N: OP = 3 and every other bit zero (R71, R72). -/
def rowNewGame : OpRow 32 := ⟨0xFFFFFFFF#32, 0x30000000#32⟩
/-- TICK, format T: OP = 4 and bits 27 to 20 zero (R71, R72). -/
def rowTick : OpRow 32 := ⟨0xFFF00000#32, 0x40000000#32⟩

/-- Format C, `word[15:8]` (R71). -/
def fieldReg (w : BitVec 32) : Byte := w.extractLsb' 8 8
/-- Format C, `word[7:0]` (R71). -/
def fieldVal (w : BitVec 32) : Byte := w.extractLsb' 0 8
/-- Format T, `word[9:0]` (R71). -/
def fieldH (w : BitVec 32) : BitVec 10 := w.extractLsb' 0 10
/-- Format T, `word[19:10]` (R71). -/
def fieldV (w : BitVec 32) : BitVec 10 := w.extractLsb' 10 10

/-- Decode a word of the command port: the row it matches, else ILLEGAL with the word itself (R72, R78). -/
def decodeCommand (w : BitVec 32) : Instr :=
  if rowConfigure.matches w then .configure (fieldReg w) (fieldVal w)
  else if rowRender.matches w then .render
  else if rowNewGame.matches w then .newGame
  else if rowTick.matches w then .tick (fieldH w) (fieldV w)
  else .illegal w

/-- The address a receiver decodes, `W[11:8]` (R83). -/
def frameAddr (w : BitVec 16) : BitVec 4 := w.extractLsb' 8 4
/-- The four address bits a receiver ignores, `W[15:12]` (R83). -/
def frameIgnored (w : BitVec 16) : BitVec 4 := w.extractLsb' 12 4
/-- The data byte, `W[7:0]` (R74). -/
def frameData (w : BitVec 16) : Byte := w.extractLsb' 0 8

/-- Decode a wire frame by its address `W[11:8]` (R80, R83, R84). Four bits hold 0x0 to 0xF, so the last arm is 0xF
and no other. -/
def decodeFrame (w : BitVec 16) : Instr :=
  let ign := frameIgnored w
  let data := frameData w
  match (frameAddr w).toNat with
  | 0x0 => .wNoop ign data
  | 0x1 => .wDigit0 ign data
  | 0x2 => .wDigit1 ign data
  | 0x3 => .wDigit2 ign data
  | 0x4 => .wDigit3 ign data
  | 0x5 => .wDigit4 ign data
  | 0x6 => .wDigit5 ign data
  | 0x7 => .wDigit6 ign data
  | 0x8 => .wDigit7 ign data
  | 0x9 => .wDecode ign data
  | 0xA => .wIntensity ign data
  | 0xB => .wScanLimit ign data
  | 0xC => .wShutdown ign data
  | 0xD => .wReservedD ign data
  | 0xE => .wReservedE ign data
  | _ => .wTest ign data

/-- The decoder, total on everything either receiver can be given. -/
def decode : Encoded → Instr
  | .command w => decodeCommand w
  | .frame w => decodeFrame w

/-- Why a string of bits is no instruction's at all. -/
inductive DecodeError where
  /-- Neither 32 bits (a command word, R70) nor 16 (a wire frame, R74). -/
  | noSuchWidth (nbits : Nat)
  /-- The number has a bit above its width. -/
  | bitsAboveWidth (nbits word : Nat)
deriving DecidableEq, Repr

/-- Read `nbits` bits as a command word or a wire frame: the width says which receiver they are for (R70, R74). -/
def encodedOfBits (nbits w : Nat) : Except DecodeError Encoded :=
  if nbits = 32 then
    if w < 2 ^ 32 then .ok (.command (BitVec.ofNat 32 w)) else .error (.bitsAboveWidth nbits w)
  else if nbits = 16 then
    if w < 2 ^ 16 then .ok (.frame (BitVec.ofNat 16 w)) else .error (.bitsAboveWidth nbits w)
  else .error (.noSuchWidth nbits)

/-- The instruction in the `nbits` bits `w`, numbered as spec/opcode_table.json numbers them; nothing where the bits
have no width of this hardware. A command word is one 32-bit word and a wire frame one 16-bit word, so the table's bit
numbers are the word's own. -/
def decodeTableWord (nbits w : Nat) : Option Instr :=
  match encodedOfBits nbits w with
  | .ok e => some (decode e)
  | .error _ => none

/-- Format C: `0x1000_0000 | REG << 8 | VAL` (R71, R85). -/
def encodeConfigure (reg val : Byte) : BitVec 32 :=
  0x1000#16 ++ reg ++ val

/-- Format T: `0x4000_0000 | V << 10 | H` (R71, R85). -/
def encodeTick (h v : BitVec 10) : BitVec 32 :=
  0x400#12 ++ v ++ h

/-- A wire frame: ignored bits, address, data byte, high to low (R74, R83). -/
def encodeFrame (ign addr : BitVec 4) (data : Byte) : BitVec 16 :=
  ign ++ addr ++ data

/-- The word of an instruction (R71, R72, R74, R80). -/
def encode : Instr → Encoded
  | .configure reg val => .command (encodeConfigure reg val)
  | .render => .command 0x20000000#32
  | .newGame => .command 0x30000000#32
  | .tick h v => .command (encodeTick h v)
  | .illegal w => .command w
  | .wNoop ign data => .frame (encodeFrame ign 0x0#4 data)
  | .wDigit0 ign data => .frame (encodeFrame ign 0x1#4 data)
  | .wDigit1 ign data => .frame (encodeFrame ign 0x2#4 data)
  | .wDigit2 ign data => .frame (encodeFrame ign 0x3#4 data)
  | .wDigit3 ign data => .frame (encodeFrame ign 0x4#4 data)
  | .wDigit4 ign data => .frame (encodeFrame ign 0x5#4 data)
  | .wDigit5 ign data => .frame (encodeFrame ign 0x6#4 data)
  | .wDigit6 ign data => .frame (encodeFrame ign 0x7#4 data)
  | .wDigit7 ign data => .frame (encodeFrame ign 0x8#4 data)
  | .wDecode ign data => .frame (encodeFrame ign 0x9#4 data)
  | .wIntensity ign data => .frame (encodeFrame ign 0xA#4 data)
  | .wScanLimit ign data => .frame (encodeFrame ign 0xB#4 data)
  | .wShutdown ign data => .frame (encodeFrame ign 0xC#4 data)
  | .wReservedD ign data => .frame (encodeFrame ign 0xD#4 data)
  | .wReservedE ign data => .frame (encodeFrame ign 0xE#4 data)
  | .wTest ign data => .frame (encodeFrame ign 0xF#4 data)

end Sys2Proof
end

