-- ==== Sys2Proof/Config.lean ====
section
/-!
DEFINITION. The types of cells and directions, the parameters a configuration fixes (spec/00_scope.md rule R6), and the
free values: constants with no body, of which nothing can be proved but their type.
-/

namespace Sys2Proof

/-- A Cell in mask form (R24, R160): a pixel by row, module and a one-bit mask of its column. -/
structure Cell where
  row : BitVec 3
  module : Nat
  columnBit : Byte
deriving DecidableEq, Repr

/-- A Cell in grid-index form (R161): a pixel by row, module and column number. -/
structure GridCell where
  row : BitVec 3
  module : Nat
  col : BitVec 3
deriving DecidableEq, Repr

/-- The four directions (R191). -/
inductive Dir where
  | up
  | down
  | right
  | left
deriving DecidableEq, Repr

/-- The two axes (R191). -/
inductive Axis where
  | vertical
  | horizontal
deriving DecidableEq, Repr

/-- A parameter that is +1 or −1 (R6: `UP_DELTA`, `RIGHT_MODULE_STEP`). -/
inductive StepSign where
  | minus
  | plus
deriving DecidableEq, Repr

/-- `JOY_MAP` (R6, R193): which reading is the horizontal one, and which side of each axis is which direction. -/
structure JoyMap where
  /-- Reading `H` is the horizontal axis and `V` the vertical; otherwise the other way round. -/
  hIsHorizontal : Bool
  /-- A low horizontal reading is Left and a high one Right; otherwise the other way round. -/
  lowIsLeft : Bool
  /-- A low vertical reading is Up and a high one Down; otherwise the other way round. -/
  lowIsUp : Bool
deriving DecidableEq, Repr

/-- `REG_ADDR` (R6, R80): the address byte of each register the startup sequence writes. -/
structure RegAddr where
  decodeMode : Byte
  intensity : Byte
  scanLimit : Byte
  shutdown : Byte
  displayTest : Byte
deriving DecidableEq, Repr

/-- `LINE_RESET` (R6): the levels of the three lines after reset. -/
structure LineLevels where
  clk : Level
  load : Level
  din : Level
deriving DecidableEq, Repr

/-- The parameters of one block (R6). They are fixed while it runs: no step changes them. -/
structure Config where
  /-- `MC`: modules in the chain. -/
  mc : Nat
  /-- `CAP`: capacity of the trail in cells. -/
  cap : Nat
  /-- `UP_DELTA`: row change of Up. -/
  upDelta : StepSign
  /-- `RIGHT_MODULE_STEP`: module change where Right passes bit 0. -/
  rightStep : StepSign
  /-- `JOY_MAP`. -/
  joy : JoyMap
  /-- `INIT_TRAIL`, oldest first. -/
  initTrail : List Cell
  /-- `INIT_DIR`. -/
  initDir : Dir
  /-- `REG_ADDR`. -/
  regAddr : RegAddr
  /-- `ROW_ADDR`: the row-select address byte of each row. -/
  rowAddr : Vector Byte 8
  /-- `LINE_RESET`. -/
  lineReset : LineLevels
  /-- `CHAIN_LEN`: chips physically in the chain. -/
  chainLen : Nat
deriving DecidableEq, Repr

/-- FREE VALUE (R167, U4; notes/assumptions/3.md): which of the free cells the `k`-th food draw returns when the outside
world has supplied no sample. Only its remainder by the number of free cells is used, so every free cell is possible. -/
opaque Config.foodChoice : Nat → Nat

/-- FREE VALUE (R140, U5; notes/assumptions/5.md): the shift register of chain position `j` at power-up. -/
opaque Config.powerUpShift : Nat → BitVec 16

/-- FREE VALUE (R140, U5; notes/assumptions/5.md): register `a` of chain position `j` at power-up. -/
opaque Config.powerUpReg : Nat → Nat → BitVec 8

end Sys2Proof
end

