-- ==== Sys2Proof/Machine/Operands.lean ====
section
/-!
DEFINITION. The operand forms of the Snake Engine: cells and their two forms (spec/42_engine_game.md rules R160 to
R164), joystick readings, the direction lock and movement on the torus (spec/43_engine_tick.md rules R191 to R198), and
the configuration the spec's rules and vectors use with the check of spec/00_scope.md rule R8.
-/

namespace Sys2Proof

/-- Rows of a module (R6). -/
def rows : Nat := 8
/-- Columns of a module (R6). -/
def cols : Nat := 8

/-- The sentinel `ZERO = (0, 0, 0x00)` (R164). -/
def Cell.zero : Cell := ⟨0#3, 0, 0x00#8⟩

/-- A mask of exactly one column (R24, R160). -/
def isColumnBit (b : Byte) : Bool :=
  b == 0x01#8 || b == 0x02#8 || b == 0x04#8 || b == 0x08#8 || b == 0x10#8 || b == 0x20#8 || b == 0x40#8 || b == 0x80#8

/-- R160: the cell names a pixel of a chain of `mc` modules. Its row is below 8 by its width. -/
def Cell.valid (mc : Nat) (c : Cell) : Bool :=
  decide (c.module < mc) && isColumnBit c.columnBit

/-- R161: the grid cell names a pixel of a chain of `mc` modules. -/
def GridCell.valid (mc : Nat) (g : GridCell) : Bool :=
  decide (g.module < mc)

/-- R162: the mask form of a grid cell, `column_bit = 1 << col`. -/
def GridCell.toCell (g : GridCell) : Cell :=
  ⟨g.row, g.module, 0x01#8 <<< g.col.toNat⟩

/-- The axis a direction lies on (R191). -/
def Dir.axis : Dir → Axis
  | .up => .vertical
  | .down => .vertical
  | .right => .horizontal
  | .left => .horizontal

/-- `opposite` swaps Up with Down and Right with Left (R191). -/
def Dir.opposite : Dir → Dir
  | .up => .down
  | .down => .up
  | .right => .left
  | .left => .right

/-- `JOY_LO` (R6). -/
def joyLo : Nat := 400
/-- `JOY_HI` (R6). -/
def joyHi : Nat := 600

/-- The class of a joystick reading (R192). -/
inductive Deflection where
  | neg
  | neutral
  | pos
deriving DecidableEq, Repr

/-- `classify` (R192): below 400 is Neg, above 600 is Pos, 400 to 600 is Neutral. -/
def classify (x : BitVec 10) : Deflection :=
  if x.toNat < joyLo then .neg
  else if x.toNat > joyHi then .pos
  else .neutral

/-- The class seen from the other side of its axis (`JOY_MAP`, R193). -/
def Deflection.flip : Deflection → Deflection
  | .neg => .pos
  | .neutral => .neutral
  | .pos => .neg

/-- The horizontal class, with Neg = Left and Pos = Right (R193), of the two readings under `JOY_MAP`. -/
def JoyMap.horizontal (j : JoyMap) (h v : BitVec 10) : Deflection :=
  let c := classify (if j.hIsHorizontal then h else v)
  if j.lowIsLeft then c else c.flip

/-- The vertical class, with Neg = Up and Pos = Down (R193), of the two readings under `JOY_MAP`. -/
def JoyMap.vertical (j : JoyMap) (h v : BitVec 10) : Deflection :=
  let c := classify (if j.hIsHorizontal then v else h)
  if j.lowIsUp then c else c.flip

/-- `resolve` (R194): the direction lock. Only the axis that is not locked counts. -/
def resolve (d : Dir) (hc vc : Deflection) : Dir :=
  match d.axis with
  | .horizontal =>
    match vc with
    | .neg => .up
    | .pos => .down
    | .neutral => d
  | .vertical =>
    match hc with
    | .neg => .left
    | .pos => .right
    | .neutral => d

/-- A row moved by ±1 modulo 8 (R195, R196): rows are three bits, so the sum wraps. -/
def stepRow (sign : StepSign) (r : BitVec 3) : BitVec 3 :=
  match sign with
  | .minus => r - 1#3
  | .plus => r + 1#3

/-- A module index moved by ±1 modulo `mc` (R197, R198). -/
def stepModule (sign : StepSign) (mc m : Nat) : Nat :=
  match sign with
  | .minus => (m + mc - 1) % mc
  | .plus => (m + 1) % mc

/-- The other sign. -/
def StepSign.neg : StepSign → StepSign
  | .minus => .plus
  | .plus => .minus

/-- `move(c, Up)` (R195). -/
def moveUp (cfg : Config) (c : Cell) : Cell :=
  { c with row := stepRow cfg.upDelta c.row }

/-- `move(c, Down)` (R196). -/
def moveDown (cfg : Config) (c : Cell) : Cell :=
  { c with row := stepRow cfg.upDelta.neg c.row }

/-- `move(c, Right)` (R197): the mask shifts toward bit 0 and, past it, into the next module's bit 7. -/
def moveRight (cfg : Config) (c : Cell) : Cell :=
  if c.columnBit = 0x01#8 then
    { c with module := stepModule cfg.rightStep cfg.mc c.module, columnBit := 0x80#8 }
  else
    { c with columnBit := c.columnBit >>> 1 }

/-- `move(c, Left)` (R198): the mask shifts toward bit 7 and, past it, into the previous module's bit 0. -/
def moveLeft (cfg : Config) (c : Cell) : Cell :=
  if c.columnBit = 0x80#8 then
    { c with module := stepModule cfg.rightStep.neg cfg.mc c.module, columnBit := 0x01#8 }
  else
    { c with columnBit := c.columnBit <<< 1 }

/-- `move` (R195 to R198). -/
def move (cfg : Config) (c : Cell) : Dir → Cell
  | .up => moveUp cfg c
  | .down => moveDown cfg c
  | .right => moveRight cfg c
  | .left => moveLeft cfg c

/-- R8: the configurations a model takes. -/
def Config.wf (cfg : Config) : Bool :=
  decide (1 ≤ cfg.mc) && decide (4 ≤ cfg.cap) && decide (cfg.initTrail.length = 3) && decide cfg.initTrail.Nodup
    && cfg.initTrail.all (Cell.valid cfg.mc) && decide (cfg.chainLen = cfg.mc)

/-- The defaults of R6, with `MC = 4` (D44) and the scenario's `CAP = 64` (D43; DESIGN CHOICE, unsafe,
notes/assumptions/1.md). The signs, the joystick map, the first direction, the addresses and the line levels are the
spec's own defaults (D5, D6, D10, D12 to D15; notes/assumptions/6.md, 13.md, 14.md). -/
def Config.standard : Config where
  mc := 4
  cap := 64
  upDelta := .minus
  rightStep := .plus
  joy := ⟨true, true, true⟩
  initTrail := [⟨4#3, 0, 0x10#8⟩, ⟨0#3, 1, 0x08#8⟩, ⟨4#3, 0, 0x04#8⟩]
  initDir := .right
  regAddr := { decodeMode := 0x09#8, intensity := 0x0A#8, scanLimit := 0x0B#8, shutdown := 0x0C#8, displayTest := 0x0F#8 }
  rowAddr := #v[0x01#8, 0x02#8, 0x03#8, 0x04#8, 0x05#8, 0x06#8, 0x07#8, 0x08#8]
  lineReset := ⟨false, false, false⟩
  chainLen := 4

end Sys2Proof
end

