-- ==== Sys2Proof/Machine/Chain.lean ====
section
/-!
DEFINITION. The display chain, the receiver of the three lines (spec/41_display_chain.md; PRESUMED throughout, the
spec's own mark, notes/assumptions/6.md): the chips' shift registers and register files, edge detection, the shift on a
CLK rising edge, the latch on a LOAD rising edge, the register write and the visible pixel.
-/

namespace Sys2Proof.Machine

/-- One chip (R30): its shift register `SR[j]` and its register file `REG[j][a]`, one byte for each address a frame can
write (R135): 0x1 to 0xC, then 0xF. -/
structure Chip where
  sr : BitVec 16
  regs : Vector Byte 13
deriving DecidableEq, Repr

/-- The chain (R30, R132): the last level it saw on each line, and its chips, the one nearest the block first. -/
structure Chain where
  clk : Level
  load : Level
  din : Level
  chips : List Chip
deriving DecidableEq, Repr

/-- The registers the spec names (R30, R80). At which address each is, is a parameter: `REG_ADDR` and `ROW_ADDR` (R6). -/
inductive DisplayReg where
  | digit (r : BitVec 3)
  | decodeMode
  | intensity
  | scanLimit
  | shutdown
  | displayTest
deriving DecidableEq, Repr

/-- The address byte of a named register (R80, R82): the parameter the block's frames to it carry. -/
def addressByte (cfg : Config) : DisplayReg → Byte
  | .digit r => cfg.rowAddr[r.toNat]'r.isLt
  | .decodeMode => cfg.regAddr.decodeMode
  | .intensity => cfg.regAddr.intensity
  | .scanLimit => cfg.regAddr.scanLimit
  | .shutdown => cfg.regAddr.shutdown
  | .displayTest => cfg.regAddr.displayTest

/-- The address at which a chip has a named register: a chip decodes the low four bits of the byte (R83). -/
def chipAddress (cfg : Config) (r : DisplayReg) : BitVec 4 :=
  (addressByte cfg r).extractLsb' 0 4

/-- The place of an address in the register file: the addresses R135 lists. The No-Op address 0x0 (R136) and the undefined
0xD and 0xE (R137) have none. -/
def fileSlot (a : BitVec 4) : Option (Fin 13) :=
  if a = 0xF#4 then some 12
  else if h : 1 ≤ a.toNat ∧ a.toNat ≤ 12 then some ⟨a.toNat - 1, by omega⟩
  else none

/-- The address of a place in the register file. -/
def slotAddress (i : Fin 13) : Nat :=
  if i.val = 12 then 0xF else i.val + 1

/-- `REG[j][a]`, read; nothing where no register is. Nothing of the block reads it (R107); claims about the display do. -/
def Chip.reg (c : Chip) (a : BitVec 4) : Option Byte :=
  (fileSlot a).map fun i => c.regs[i.val]'i.isLt

/-- A named register, read at the address the parameters give it (R6, R80). -/
def Chip.named (cfg : Config) (c : Chip) (r : DisplayReg) : Option Byte :=
  c.reg (chipAddress cfg r)

/-- `REG[j][a] <- d` where the file has the address (R135). -/
def Chip.put (c : Chip) (a : BitVec 4) (d : Byte) : Chip :=
  match fileSlot a with
  | some i => { c with regs := c.regs.set i.val d i.isLt }
  | none => c

/-- `reg_write(j, a, d)` at one chip (R135 to R137): nothing changes at the No-Op address, and there is no answer for an
undefined one. -/
def Chip.regWrite (c : Chip) (a : BitVec 4) (d : Byte) : Option Chip :=
  if a = 0x0#4 then some c
  else if (fileSlot a).isSome then some (c.put a d)
  else none

/-- The register write of the frame in the chip's shift register (R134). `SR` itself is not changed. -/
def Chip.latch (c : Chip) : Option Chip :=
  c.regWrite (frameAddr c.sr) (frameData c.sr)

/-- The shift at a CLK rising edge (R133): every position takes in the bit before it, position 0 takes DIN. -/
def shiftIn : Level → List Chip → List Chip
  | _, [] => []
  | b, c :: rest => { c with sr := c.sr.shiftConcat b } :: shiftIn c.sr.msb rest

/-- The latch at a LOAD rising edge (R134): every position performs its register write; one undefined address and the
chain has no next state (R137). -/
def latchAll : List Chip → Option (List Chip)
  | [] => some []
  | c :: rest =>
    match c.latch, latchAll rest with
    | some c', some rest' => some (c' :: rest')
    | _, _ => none

/-- What the chain does at one line write (R132 to R134): only rising edges of CLK and LOAD act; every write updates the
kept level. -/
def Chain.see (c : Chain) (e : BusEvent) : Option Chain :=
  match e.line with
  | .din => some { c with din := e.level }
  | .clk =>
    if e.level && !c.clk then some { c with clk := e.level, chips := shiftIn c.din c.chips }
    else some { c with clk := e.level }
  | .load =>
    if e.level && !c.load then
      match latchAll c.chips with
      | some chips => some { c with load := e.level, chips := chips }
      | none => none
    else some { c with load := e.level }

/-- The chain after a list of line writes, in their order (R61); once refused it stays so (R137). -/
def watch (c : Option Chain) (es : List BusEvent) : Option Chain :=
  es.foldl (fun c e => c.bind (·.see e)) c

/-- `lit(j, r, k)` at one chip (R139), its registers where the parameters have them: display test overrides, then
shutdown, then the scan limit; a row with code-B decode has no answer (U8), and neither has a register the parameters put at
an address without one (notes/assumptions/6.md). -/
def Chip.lit (cfg : Config) (c : Chip) (r k : BitVec 3) : Option Bool :=
  (c.named cfg .displayTest).bind fun test =>
    if test.getLsbD 0 then some true
    else
      (c.named cfg .shutdown).bind fun shutdown =>
        if !shutdown.getLsbD 0 then some false
        else
          (c.named cfg .scanLimit).bind fun scanLimit =>
            if r.toNat > (scanLimit.extractLsb' 0 3).toNat then some false
            else
              (c.named cfg .decodeMode).bind fun decodeMode =>
                if decodeMode.getLsbD r.toNat then none
                else (c.named cfg (.digit r)).map fun digit => digit.getLsbD k.toNat

/-- A chip at power-up (R140): every register a FREE VALUE (notes/assumptions/5.md). -/
def Chip.powerUp (j : Nat) : Chip where
  sr := Config.powerUpShift j
  regs := Vector.ofFn fun i => Config.powerUpReg j (slotAddress i)

/-- The chain at power-up (R132, R140). -/
def Chain.powerUp (cfg : Config) : Chain where
  clk := cfg.lineReset.clk
  load := cfg.lineReset.load
  din := cfg.lineReset.din
  chips := (List.range cfg.chainLen).map Chip.powerUp

end Sys2Proof.Machine
end

