-- ==== Sys2Proof/Machine/Food.lean ====
section
/-!
DEFINITION. The food oracle (spec/42_engine_game.md rule R167): rejection sampling over the samples the outside world
supplies, and a free value among the free cells where it has supplied none.
-/

namespace Sys2Proof.Machine

/-- Every grid cell of a chain of `mc` modules: `64 * mc` of them (R7, R161). -/
def gridCells (mc : Nat) : List GridCell :=
  (List.range rows).flatMap fun r =>
    (List.range mc).flatMap fun m =>
      (List.range cols).map fun k => ⟨BitVec.ofNat 3 r, m, BitVec.ofNat 3 k⟩

/-- The grid cell may be drawn: it is on the grid and its mask form is not in the exclusion set (R167). -/
def isFree (mc : Nat) (exclude : List Cell) (g : GridCell) : Bool :=
  g.valid mc && !exclude.contains g.toCell

/-- The free cells, in grid order. -/
def freeCells (mc : Nat) (exclude : List Cell) : List GridCell :=
  (gridCells mc).filter (isFree mc exclude)

/-- Rejection sampling (R167): the first sample that is accepted, and the samples after it. -/
def firstAccepted (accept : GridCell → Bool) : List GridCell → Option (GridCell × List GridCell)
  | [] => none
  | g :: rest => if accept g then some (g, rest) else firstAccepted accept rest

/-- What a draw gives and what it leaves of the source of randomness. -/
structure Draw where
  cell : GridCell
  draws : List GridCell
  drawCount : Nat
deriving DecidableEq, Repr

/-- `draw_free_cell(X)` (R167): the first supplied sample that is free; where no supplied sample is, a FREE VALUE among
the free cells (notes/assumptions/3.md); no answer where no cell is free. -/
def drawFreeCell (mc : Nat) (exclude : List Cell) (draws : List GridCell) (drawCount : Nat) : Option Draw :=
  match firstAccepted (isFree mc exclude) draws with
  | some (g, rest) => some ⟨g, rest, drawCount⟩
  | none =>
    match freeCells mc exclude with
    | [] => none
    | f :: fs => some ⟨(f :: fs).getD (Config.foodChoice drawCount % (f :: fs).length) f, [], drawCount + 1⟩

end Sys2Proof.Machine
end

