-- ==== Sys2Proof/Machine/Memory.lean ====
section
/-!
DEFINITION. The Pixel Buffer as plain data (spec/20_memory.md rules R50, R53, R56): a list of (index, byte) pairs in one
canonical form, its one read and one write, and the pixel primitives of spec/42_engine_game.md rules R165 and R166.
-/

namespace Sys2Proof.Machine

/-- The bytes of the Pixel Buffer by index (R50). Indices rise strictly and no listed byte is 0x00. -/
abbrev Memory := List Host.Cell

/-- What an index that is not listed reads as: NEW_GAME and reset clear every byte to 0x00 (R169, R261;
notes/assumptions/16.md). -/
def unlistedByte : Byte := 0x00#8

/-- `MemRead(PIX, a, 1)` (R11). -/
def Memory.read : Memory → Nat → Byte
  | [], _ => unlistedByte
  | (b, v) :: rest, a => if b = a then v else Memory.read rest a

/-- `MemWrite(PIX, a, 1, v)` (R11), keeping the canonical form. -/
def Memory.write : Memory → Nat → Byte → Memory
  | [], a, v => if v = unlistedByte then [] else [(a, v)]
  | (b, x) :: rest, a, v =>
    if a < b then
      if v = unlistedByte then (b, x) :: rest else (a, v) :: (b, x) :: rest
    else if a = b then
      if v = unlistedByte then rest else (a, v) :: rest
    else (b, x) :: Memory.write rest a v

/-- Every listed index is above `lo`, they rise strictly, and none reads as an unlisted one does. -/
def Memory.wfAbove : Nat → Memory → Bool
  | _, [] => true
  | lo, (b, v) :: rest => decide (lo ≤ b) && v != unlistedByte && Memory.wfAbove (b + 1) rest

/-- The canonical form. -/
def Memory.wf (m : Memory) : Bool := Memory.wfAbove 0 m

/-- The index of a byte of the Pixel Buffer, `row * MC + module` (R11, R50). -/
def pixIndex (mc : Nat) (row : BitVec 3) (module : Nat) : Nat :=
  row.toNat * mc + module

/-- `PIX[r][m]` (R11). -/
def readPix (mc : Nat) (m : Memory) (row : BitVec 3) (module : Nat) : Byte :=
  m.read (pixIndex mc row module)

/-- `pix_set(c)` (R165): set the cell's bit in its byte. -/
def pixSetIn (mc : Nat) (c : Cell) (m : Memory) : Memory :=
  m.write (pixIndex mc c.row c.module) (readPix mc m c.row c.module ||| c.columnBit)

/-- `pix_clear(c)` (R166): clear the cell's bit in its byte. -/
def pixClearIn (mc : Nat) (c : Cell) (m : Memory) : Memory :=
  m.write (pixIndex mc c.row c.module) (readPix mc m c.row c.module &&& ~~~c.columnBit)

/-- The cell's pixel is lit: its bit of its byte is 1 (R53, R170 I6). -/
def lit (mc : Nat) (m : Memory) (c : Cell) : Bool :=
  readPix mc m c.row c.module &&& c.columnBit != 0x00#8

end Sys2Proof.Machine
end

