-- ==== Sys2Proof/Machine/State.lean ====
section
/-!
DEFINITION. The state of the machine (spec/10_state.md), the reasons a step can stop, and the state after reset
(spec/70_reset_and_hazards.md rules R260 and R261).
-/

namespace Sys2Proof.Machine

/-- Why the machine stops with a fault of the model. The block's own faults (R230) are no stops: they are values of
`State.fault`. -/
inductive Fault where
  /-- TICK would use a trail index outside `0..CAP-1`, or a window below index 0 (R11, U10). Raised by `execTick`. Safe:
  the machine stops where the spec gives no meaning, in states no run from reset reaches. -/
  | trailIndex
  /-- TICK would write a pixel of a module the chain does not have (R11, U10). Raised by `execTick`. Safe: as above. -/
  | pixIndex
  /-- A stand-alone wire frame is latched at a position the chain does not have (R11, U10). Raised by the wire-frame
  meanings. Safe: as above. -/
  | chainPosition
deriving DecidableEq, Repr

/-- Why the machine has no next state. -/
inductive Refusal where
  /-- The instruction has no meaning yet. Raised by `exec`'s refused arms only. Safe: no step is taken. -/
  | notModelled (mnemonic : String)
  /-- The configuration fails a check of R8: the model has no state for it (U9). Raised by every meaning. Safe. -/
  | illFormedConfig
  /-- A stand-alone wire frame has an address that names no register (R137, U6). Raised by the meanings of W_RESERVED_D
  and W_RESERVED_E. Safe. -/
  | undefinedDisplayAddress
  /-- A stand-alone wire frame reaches a chain that R137 has refused already. Raised by the wire-frame meanings. Safe. -/
  | chainRefused
deriving DecidableEq, Repr

/-- `S.PHASE` (R25, R27). -/
inductive Phase where
  | running
  | gameOver
deriving DecidableEq, Repr

/-- The causes `S.FAULT` can hold (R230). -/
inductive FaultCause where
  | illegalCommand
  | trailOverflow
deriving DecidableEq, Repr

/-- One event of the notice trace (R12, R237). -/
inductive NoticeEvent where
  | gameOver
deriving DecidableEq, Repr

/-- Everything the spec gives the machine, the configuration it was built with, and what the outside presents to it. -/
structure State where
  /-- The parameters of R6. No step changes them. -/
  cfg : Config
  /-- `S.CLK` (R22). -/
  clk : Level
  /-- `S.LOAD` (R22). -/
  load : Level
  /-- `S.DIN` (R22). -/
  din : Level
  /-- `S.BUS` (R23), oldest event first. -/
  bus : List BusEvent
  /-- `S.PHASE` (R25). -/
  phase : Phase
  /-- `S.DIR` (R25); the lock axis is its axis (R26). -/
  dir : Dir
  /-- `S.HEAD` (R25). -/
  head : Cell
  /-- `S.FOOD` (R25). -/
  food : GridCell
  /-- `S.LENGTH` (R25). -/
  length : Nat
  /-- `S.STEPPER` (R25). -/
  stepper : Nat
  /-- `S.TRAIL[0..CAP-1]` (R28). -/
  trail : List Cell
  /-- `S.PIX` (R29). -/
  pix : Memory
  /-- `S.FAULT` (R25, R230). -/
  fault : Option FaultCause
  /-- The notice trace (R32, R237), oldest event first. -/
  notices : List NoticeEvent
  /-- The block is in a TICK that never completes (R234). -/
  hung : Bool
  /-- The display chain (R30); nothing once R137 has refused it. -/
  chain : Option Chain
  /-- INPUT: the command words the host presents, the present one first (R70). -/
  port : List (BitVec 32)
  /-- INPUT: the host applies reset (R240, R260), after that many line writes of the command the port presents; at once
  where the number is 0 or no command starts (notes/assumptions/12.md). -/
  resetReq : Option Nat
  /-- INPUT: the samples the random source will deliver, next first (R31, R167). -/
  draws : List GridCell
  /-- How many food draws have taken a free value; the index of the next one. The model's own field. -/
  drawCount : Nat
  /-- A stand-alone wire frame waits in the shift register at `latchPos`. The model's own field. -/
  latchDue : Bool
  /-- The chain position whose frame a stand-alone latch decodes. The model's own field. -/
  latchPos : Nat
deriving DecidableEq, Repr

/-- The trail of a new game (R169): `INIT_TRAIL`, then ZERO up to the capacity. -/
def initialTrail (cfg : Config) : List Cell :=
  cfg.initTrail ++ List.replicate (cfg.cap - cfg.initTrail.length) Cell.zero

/-- The Pixel Buffer of a new game before its food (R169): all clear, then the initial cells. -/
def initialPix (cfg : Config) : Memory :=
  cfg.initTrail.foldl (fun m c => pixSetIn cfg.mc c m) []

/-- The head of a new game, `INIT_TRAIL[2]` (R169). -/
def initialHead (cfg : Config) : Cell :=
  cfg.initTrail.getD 2 Cell.zero

/-- The machine right after power-on with a configuration and the samples the random source will deliver: the reset of
R260 with the values of R261, an unspecified chain (R140), and nothing presented yet. -/
def State.powerOn (cfg : Config) (draws : List GridCell) : State :=
  let d := drawFreeCell cfg.mc cfg.initTrail draws 0
  let food : GridCell := (d.map (·.cell)).getD ⟨0#3, 0, 0#3⟩
  { cfg := cfg
    clk := cfg.lineReset.clk
    load := cfg.lineReset.load
    din := cfg.lineReset.din
    bus := []
    phase := .running
    dir := cfg.initDir
    head := initialHead cfg
    food := food
    length := 3
    stepper := 3
    trail := initialTrail cfg
    pix := if d.isSome then pixSetIn cfg.mc food.toCell (initialPix cfg) else initialPix cfg
    fault := none
    notices := []
    hung := d.isNone
    chain := some (Chain.powerUp cfg)
    port := []
    resetReq := none
    draws := (d.map (·.draws)).getD draws
    drawCount := (d.map (·.drawCount)).getD 0
    latchDue := false
    latchPos := 0 }

/-- The machine right after reset: R260 and R261 in the configuration of R6's defaults. -/
def State.reset : State := State.powerOn Config.standard []

end Sys2Proof.Machine
end

