-- ==== Sys2Proof/Machine/Flags.lean ====
section
/-!
DEFINITION. The flags and status outputs of the block, all computed from its state: PHASE and the lock axis
(spec/10_state.md rules R26, R27), the outputs GAME_OVER and FAULTED (rule R32, spec/60_exceptions.md rules R230 and
R237), and the numeric codes of the enumerated registers (spec/92_eei_decisions.md D2).
-/

namespace Sys2Proof.Machine

/-- The codes of PHASE: Running 0, GameOver 1 (R25). -/
def Phase.code : Phase → BitVec 1
  | .running => 0#1
  | .gameOver => 1#1

/-- The codes of DIR: Up 0, Down 1, Right 2, Left 3 (R25). -/
def dirCode : Dir → BitVec 2
  | .up => 0#2
  | .down => 1#2
  | .right => 2#2
  | .left => 3#2

/-- The codes of FAULT: none 0, IllegalCommand 1, TrailOverflow 2 (R230). -/
def faultCode : Option FaultCause → Nat
  | none => 0
  | some .illegalCommand => 1
  | some .trailOverflow => 2

/-- The lock axis (R26). -/
def State.lockAxis (s : State) : Axis := s.dir.axis

/-- The output `GAME_OVER` (R32, R237). -/
def State.gameOverOut (s : State) : Bool := s.phase == .gameOver

/-- The output `FAULTED` (R32, R230). -/
def State.faultedOut (s : State) : Bool := s.fault.isSome

/-- The cause readable with `FAULTED` (R32). -/
def State.causeOut (s : State) : Nat := faultCode s.fault

/-- The block accepts a command: no fault is recorded (R231) and no TICK is hung (R234). -/
def State.accepting (s : State) : Bool := s.fault.isNone && !s.hung

end Sys2Proof.Machine
end

