-- ==== Sys2Proof/Machine/Ops.lean ====
section
/-!
DEFINITION. The named operations the meanings share: `LineWrite` and the bus primitives (spec/00_scope.md rule R12,
spec/40_driver.md rules R101 to R104), the pixel and food operations (spec/42_engine_game.md rules R165 to R168), `raise
Fault` and `Notice` (spec/60_exceptions.md rules R231, R237), setting up a game (rule R169), the block's reset
(spec/70_reset_and_hazards.md rule R260), and the register write of a stand-alone wire frame (spec/41_display_chain.md
rules R134 to R137).
-/

namespace Sys2Proof.Machine

/-- The result of one instruction. -/
abbrev Result := Host.Outcome State Fault Refusal

/-- The line takes the level (R22). -/
def State.setLine (s : State) (e : BusEvent) : State :=
  match e.line with
  | .clk => { s with clk := e.level }
  | .load => { s with load := e.level }
  | .din => { s with din := e.level }

/-- `LineWrite(L, b)` (R12): set the line and append the event, level change or not; the chain sees it at once (R61,
R132). -/
def lineWrite (l : Line) (b : Level) (s : State) : State :=
  let e : BusEvent := ⟨l, b⟩
  { s.setLine e with bus := s.bus ++ [e], chain := s.chain.bind (·.see e) }

/-- `send_bit(b)` (R101): clock low, data, clock high, in this order. -/
def sendBit (b : Bool) (s : State) : State :=
  lineWrite .clk true (lineWrite .din b (lineWrite .clk false s))

/-- The bits of a byte in the order they are sent, bit 7 first (R102). -/
def bitsMsbFirst (v : Byte) : List Bool :=
  [v.getLsbD 7, v.getLsbD 6, v.getLsbD 5, v.getLsbD 4, v.getLsbD 3, v.getLsbD 2, v.getLsbD 1, v.getLsbD 0]

/-- `send_byte(v)` (R102). -/
def sendByte (v : Byte) (s : State) : State :=
  (bitsMsbFirst v).foldl (fun s b => sendBit b s) s

/-- `send_frame(a, d)` (R103): address byte first. -/
def sendFrame (a d : Byte) (s : State) : State :=
  sendByte d (sendByte a s)

/-- `latch_begin` (R104). -/
def latchBegin (s : State) : State := lineWrite .load false s

/-- `latch_end` (R104). -/
def latchEnd (s : State) : State := lineWrite .load true s

/-- One latch frame (R76, R104): LOAD low, the wire frames in order, LOAD high. -/
def latchFrame (frames : List (Byte × Byte)) (s : State) : State :=
  latchEnd (frames.foldl (fun s f => sendFrame f.1 f.2 s) (latchBegin s))

/-- `pix_set(c)` (R165). -/
def pixSet (c : Cell) (s : State) : State :=
  { s with pix := pixSetIn s.cfg.mc c s.pix }

/-- `pix_clear(c)` (R166). -/
def pixClear (c : Cell) (s : State) : State :=
  { s with pix := pixClearIn s.cfg.mc c s.pix }

/-- `raise Fault(cause)` (R231): record the cause and do nothing else. -/
def raiseFault (cause : FaultCause) (s : State) : State :=
  { s with fault := some cause }

/-- `Notice(GAME_OVER)` (R12, R237). -/
def notice (e : NoticeEvent) (s : State) : State :=
  { s with notices := s.notices ++ [e] }

/-- A draw without an answer: the command never completes (R167, R234). What it has written so far stands. -/
def hang (s : State) : State := { s with hung := true }

/-- The food a draw gave becomes FOOD and its pixel is lit (R168). -/
def placeFood (d : Draw) (s : State) : State :=
  pixSet d.cell.toCell { s with food := d.cell, draws := d.draws, drawCount := d.drawCount }

/-- `draw_free_cell(X)` with the randomness the state holds (R167). -/
def drawFood (exclude : List Cell) (s : State) : Option Draw :=
  drawFreeCell s.cfg.mc exclude s.draws s.drawCount

/-- `spawn_food(X)` (R168) and what follows it in its command: with no answer the command hangs there. -/
def spawnFood (exclude : List Cell) (andThen : State → State) (s : State) : State :=
  match drawFood exclude s with
  | some d => andThen (placeFood d s)
  | none => hang s

/-- A host command under an admitted configuration (R8), with the check that opens every command: a faulted block does
nothing (R231, R238), and a hung one never accepts the command (R234). -/
def hostCommand (s : State) (run : Result) : Result :=
  if s.cfg.wf then
    if s.accepting then run else .next s
  else .refused .illFormedConfig

/-- The engine state of a fresh game before its food (R169). -/
def freshGame (s : State) : State :=
  { s with
    trail := initialTrail s.cfg
    pix := initialPix s.cfg
    length := 3
    stepper := 3
    head := initialHead s.cfg
    dir := s.cfg.initDir
    phase := .running }

/-- The body of NEW_GAME (R169). -/
def startGame (s : State) : State :=
  spawnFood s.cfg.initTrail id (freshGame s)

/-- The block's reset (R260): a command in progress is abandoned, FAULT is cleared, the lines take LINE_RESET without an
event, both traces are emptied and the engine is set up as NEW_GAME does. The chain sees nothing of it. The request is
answered. -/
def applyReset (s : State) : State :=
  startGame
    { s with
      hung := false
      fault := none
      clk := s.cfg.lineReset.clk
      load := s.cfg.lineReset.load
      din := s.cfg.lineReset.din
      bus := []
      notices := []
      resetReq := none }

/-- The block's reset after the first `n` line writes of a command that would have led from `s` to `t` (R260): the chain
has seen those writes and no more, and everything the command did to the block is overwritten. With `n` at least their
number the command was complete. -/
def cutByReset (n : Nat) (s t : State) : State :=
  applyReset { t with chain := watch s.chain ((t.bus.drop s.bus.length).take n) }

/-- A command from `s` that the reset abandons after `n` line writes (R260). -/
def abandonCommand (n : Nat) (s : State) (run : Result) : Result :=
  match run with
  | .next t => .next (cutByReset n s t)
  | .fault f => .fault f
  | .refused r => .refused r

/-- A stand-alone wire frame (notes/assumptions/8.md) acts on the chip at `latchPos`, as one position does at a LOAD
rising edge (R134). -/
def atLatchedChip (s : State) (act : Chip → Chip) : Result :=
  if s.cfg.wf then
    match s.chain with
    | none => .refused .chainRefused
    | some c =>
      match c.chips[s.latchPos]? with
      | none => .fault .chainPosition
      | some chip => .next { s with chain := some { c with chips := c.chips.set s.latchPos (act chip) } }
  else .refused .illFormedConfig

/-- The register write of a stand-alone wire frame (R135). -/
def writeDisplay (a : BitVec 4) (d : Byte) (s : State) : Result :=
  atLatchedChip s (·.put a d)

end Sys2Proof.Machine
end

