-- ==== Sys2Proof/Machine/Driver.lean ====
section
/-!
DEFINITION. The Matrix Driver's commands, CONFIGURE and RENDER (spec/40_driver.md rules R105 and R110), and the ILLEGAL
command word (spec/60_exceptions.md rule R232).
-/

namespace Sys2Proof.Machine

/-- The wire frames of one CONFIGURE: the same pair for every module (R105). -/
def configureFrames (cfg : Config) (reg val : Byte) : List (Byte × Byte) :=
  List.replicate cfg.mc (reg, val)

/-- CONFIGURE (R105). -/
def execConfigure (reg val : Byte) (s : State) : Result :=
  hostCommand s (.next (latchFrame (configureFrames s.cfg reg val) s))

/-- `ROW_ADDR(r)` (R82). -/
def rowAddress (cfg : Config) (r : BitVec 3) : Byte :=
  addressByte cfg (.digit r)

/-- The wire frames of one row of a RENDER: module `MC-1` first and module 0 last (R112), each with the row's address
and its own byte (R113). -/
def rowFrames (cfg : Config) (pix : Memory) (r : BitVec 3) : List (Byte × Byte) :=
  (List.range cfg.mc).reverse.map fun m => (rowAddress cfg r, readPix cfg.mc pix r m)

/-- The rows in the order RENDER sends them (R111). -/
def rowOrder : List (BitVec 3) :=
  [0#3, 1#3, 2#3, 3#3, 4#3, 5#3, 6#3, 7#3]

/-- The latch frame of one row (R110). -/
def renderRow (s : State) (r : BitVec 3) : State :=
  latchFrame (rowFrames s.cfg s.pix r) s

/-- RENDER (R110). -/
def execRender (s : State) : Result :=
  hostCommand s (.next (rowOrder.foldl renderRow s))

/-- A command word that spells no command raises IllegalCommand (R232). The word itself is not kept. -/
def execIllegal (_word : BitVec 32) (s : State) : Result :=
  hostCommand s (.next (raiseFault .illegalCommand s))

end Sys2Proof.Machine
end

