-- ==== Sys2Proof/Machine/Frames.lean ====
section
/-!
DEFINITION. The wire frames as instructions of one display controller (spec/41_display_chain.md rules R134 to R137): the
register write a chip performs when it decodes the frame. CONFIGURE and RENDER perform the same writes at every position
through `Chain.see`; on its own a frame acts at the position `latchPos` (notes/assumptions/8.md). `W[15:12]` is ignored
(R83).
-/

namespace Sys2Proof.Machine

/-- W_NOOP, address 0x0: nothing changes (R136). -/
def execWNoop (_ign : BitVec 4) (_data : Byte) (s : State) : Result :=
  atLatchedChip s id

/-- W_DIGIT0, address 0x1, by default Digit 0 (R80, R135). -/
def execWDigit0 (_ign : BitVec 4) (data : Byte) (s : State) : Result :=
  writeDisplay 0x1#4 data s

/-- W_DIGIT1, address 0x2, by default Digit 1 (R80, R135). -/
def execWDigit1 (_ign : BitVec 4) (data : Byte) (s : State) : Result :=
  writeDisplay 0x2#4 data s

/-- W_DIGIT2, address 0x3, by default Digit 2 (R80, R135). -/
def execWDigit2 (_ign : BitVec 4) (data : Byte) (s : State) : Result :=
  writeDisplay 0x3#4 data s

/-- W_DIGIT3, address 0x4, by default Digit 3 (R80, R135). -/
def execWDigit3 (_ign : BitVec 4) (data : Byte) (s : State) : Result :=
  writeDisplay 0x4#4 data s

/-- W_DIGIT4, address 0x5, by default Digit 4 (R80, R135). -/
def execWDigit4 (_ign : BitVec 4) (data : Byte) (s : State) : Result :=
  writeDisplay 0x5#4 data s

/-- W_DIGIT5, address 0x6, by default Digit 5 (R80, R135). -/
def execWDigit5 (_ign : BitVec 4) (data : Byte) (s : State) : Result :=
  writeDisplay 0x6#4 data s

/-- W_DIGIT6, address 0x7, by default Digit 6 (R80, R135). -/
def execWDigit6 (_ign : BitVec 4) (data : Byte) (s : State) : Result :=
  writeDisplay 0x7#4 data s

/-- W_DIGIT7, address 0x8, by default Digit 7 (R80, R135). -/
def execWDigit7 (_ign : BitVec 4) (data : Byte) (s : State) : Result :=
  writeDisplay 0x8#4 data s

/-- W_DECODE, address 0x9, by default Decode Mode (R80, R135). -/
def execWDecode (_ign : BitVec 4) (data : Byte) (s : State) : Result :=
  writeDisplay 0x9#4 data s

/-- W_INTENSITY, address 0xA, by default Intensity (R80, R135). -/
def execWIntensity (_ign : BitVec 4) (data : Byte) (s : State) : Result :=
  writeDisplay 0xA#4 data s

/-- W_SCANLIMIT, address 0xB, by default Scan Limit (R80, R135). -/
def execWScanLimit (_ign : BitVec 4) (data : Byte) (s : State) : Result :=
  writeDisplay 0xB#4 data s

/-- W_SHUTDOWN, address 0xC, by default Shutdown (R80, R135). -/
def execWShutdown (_ign : BitVec 4) (data : Byte) (s : State) : Result :=
  writeDisplay 0xC#4 data s

/-- W_RESERVED_D, address 0xD: it names no register and the chain model has no next state (R84, R137, U6). -/
def execWReservedD (_ign : BitVec 4) (_data : Byte) (_s : State) : Result :=
  .refused .undefinedDisplayAddress

/-- W_RESERVED_E, address 0xE: it names no register and the chain model has no next state (R84, R137, U6). -/
def execWReservedE (_ign : BitVec 4) (_data : Byte) (_s : State) : Result :=
  .refused .undefinedDisplayAddress

/-- W_TEST, address 0xF, by default Display Test (R80, R135). -/
def execWTest (_ign : BitVec 4) (data : Byte) (s : State) : Result :=
  writeDisplay 0xF#4 data s

end Sys2Proof.Machine
end

