-- ==== Sys2Proof/Machine/Game.lean ====
section
/-!
DEFINITION. The Snake Engine's commands, NEW_GAME (spec/42_engine_game.md rule R169) and TICK (spec/43_engine_tick.md
rules R190 to R208).
-/

namespace Sys2Proof.Machine

/-- NEW_GAME (R169). -/
def execNewGame (s : State) : Result :=
  hostCommand s (.next (startGame s))

/-- The cells at indices `lo` to `hi - 1` (R25, R28). -/
def trailSlice (trail : List Cell) (lo hi : Nat) : List Cell :=
  (trail.take hi).drop lo

/-- The active window `[STEPPER - LENGTH, STEPPER)`, oldest first (R28). -/
def State.window (s : State) : List Cell :=
  trailSlice s.trail (s.stepper - s.length) s.stepper

/-- Step 1: the direction of this tick, `d2` (R192 to R194). -/
def tickDir (h v : BitVec 10) (s : State) : Dir :=
  resolve s.dir (s.cfg.joy.horizontal h v) (s.cfg.joy.vertical h v)

/-- Step 2: the new head, `h2` (R195 to R198). -/
def tickHead (h v : BitVec 10) (s : State) : Cell :=
  move s.cfg s.head (tickDir h v s)

/-- Step 3: the new head is the food, compared in mask form (R199). -/
def tickAte (h v : BitVec 10) (s : State) : Bool :=
  tickHead h v s == s.food.toCell

/-- The capacity check (R200). -/
def tickOverflows (h v : BitVec 10) (s : State) : Bool :=
  tickAte h v s && decide (s.cfg.cap ≤ s.length + 1)

/-- The first index of `keep`: the whole window when eating, else without the tail about to be vacated (R203). -/
def keepFrom (h v : BitVec 10) (s : State) : Nat :=
  if tickAte h v s then s.stepper - s.length else s.stepper - s.length + 1

/-- The cells of `keep` (R190, R203). -/
def tickKeep (h v : BitVec 10) (s : State) : List Cell :=
  trailSlice s.trail (keepFrom h v s) s.stepper

/-- Step 4: the new head is a cell of `keep` (R203). -/
def tickCollides (h v : BitVec 10) (s : State) : Bool :=
  (tickKeep h v s).contains (tickHead h v s)

/-- The tail cell, `TRAIL[STEPPER - LENGTH]` (R202). -/
def State.tail (s : State) : Cell :=
  s.trail.getD (s.stepper - s.length) Cell.zero

/-- A collision (R207): PHASE and the notice, and nothing else. -/
def enterGameOver (s : State) : State :=
  notice .gameOver { s with phase := .gameOver }

/-- Rollover compaction (R205): the last `LENGTH` cells move to the start, ZERO fills the rest, and STEPPER becomes
LENGTH. -/
def rollover (s : State) : State :=
  { s with
    trail := trailSlice s.trail (s.cfg.cap - s.length) s.cfg.cap ++ List.replicate (s.cfg.cap - s.length) Cell.zero
    stepper := s.length }

/-- Steps 5 and 6 (R205, R206): rollover where the append wrote the last slot, else the increment. -/
def advanceStepper (s : State) : State :=
  if s.stepper = s.cfg.cap - 1 then rollover s else { s with stepper := s.stepper + 1 }

/-- The append (R204), then steps 5 and 6. -/
def appendHead (h2 : Cell) (s : State) : State :=
  advanceStepper (pixSet h2 { s with trail := s.trail.set s.stepper h2 })

/-- The tail leaves the window (R202). -/
def vacateTail (s : State) : State :=
  pixClear s.tail { s with trail := s.trail.set (s.stepper - s.length) Cell.zero }

/-- The old food is eaten and the snake grows (R201): its pixel cleared, LENGTH one more. -/
def eatFood (s : State) : State :=
  pixClear s.food.toCell { s with length := s.length + 1 }

/-- TICK in Running, all indices in range (R190). -/
def runTick (h v : BitVec 10) (s : State) : State :=
  let h2 := tickHead h v s
  let moved := { s with dir := tickDir h v s, head := h2 }
  if tickOverflows h v s then raiseFault .trailOverflow s
  else if tickCollides h v s then enterGameOver s
  else if tickAte h v s then spawnFood (tickKeep h v s ++ [h2]) (appendHead h2) (eatFood moved)
  else appendHead h2 (vacateTail moved)

/-- Every trail index a TICK uses is in the trail: the window lies inside it and the append has a slot (R11, R25). -/
def trailInRange (s : State) : Bool :=
  decide (s.length ≤ s.stepper) && decide (s.stepper < s.cfg.cap) && decide (s.trail.length = s.cfg.cap)

/-- Every pixel a TICK writes is of a module of the chain: the new head's and the tail's (R11). The food's is, where it
is the new head. -/
def pixInRange (h v : BitVec 10) (s : State) : Bool :=
  decide ((tickHead h v s).module < s.cfg.mc) && decide (s.tail.module < s.cfg.mc)

/-- TICK where an index would leave its space: TrailOverflow is raised before any access (R238), anything else has no
meaning (R11, notes/assumptions/10.md). -/
def tickOutOfRange (h v : BitVec 10) (s : State) : Result :=
  if tickOverflows h v s then .next (raiseFault .trailOverflow s)
  else if trailInRange s then .fault .pixIndex
  else .fault .trailIndex

/-- TICK (R190, R208). -/
def execTick (h v : BitVec 10) (s : State) : Result :=
  hostCommand s
    (match s.phase with
    | .gameOver => .next s
    | .running => if trailInRange s && pixInRange h v s then .next (runTick h v s) else tickOutOfRange h v s)

end Sys2Proof.Machine
end

