-- ==== Sys2Proof/Machine/Dispatch.lean ====
section
/-!
DEFINITION. One arm per instruction: each calls its meaning.
-/

namespace Sys2Proof.Machine

def exec (i : Instr) (s : State) : Host.Outcome State Fault Refusal :=
  match i with
  | .configure reg val => Sys2Proof.Machine.execConfigure reg val s
  | .render => Sys2Proof.Machine.execRender s
  | .newGame => Sys2Proof.Machine.execNewGame s
  | .tick h v => Sys2Proof.Machine.execTick h v s
  | .illegal word => Sys2Proof.Machine.execIllegal word s
  | .wNoop ign data => Sys2Proof.Machine.execWNoop ign data s
  | .wDigit0 ign data => Sys2Proof.Machine.execWDigit0 ign data s
  | .wDigit1 ign data => Sys2Proof.Machine.execWDigit1 ign data s
  | .wDigit2 ign data => Sys2Proof.Machine.execWDigit2 ign data s
  | .wDigit3 ign data => Sys2Proof.Machine.execWDigit3 ign data s
  | .wDigit4 ign data => Sys2Proof.Machine.execWDigit4 ign data s
  | .wDigit5 ign data => Sys2Proof.Machine.execWDigit5 ign data s
  | .wDigit6 ign data => Sys2Proof.Machine.execWDigit6 ign data s
  | .wDigit7 ign data => Sys2Proof.Machine.execWDigit7 ign data s
  | .wDecode ign data => Sys2Proof.Machine.execWDecode ign data s
  | .wIntensity ign data => Sys2Proof.Machine.execWIntensity ign data s
  | .wScanLimit ign data => Sys2Proof.Machine.execWScanLimit ign data s
  | .wShutdown ign data => Sys2Proof.Machine.execWShutdown ign data s
  | .wReservedD ign data => Sys2Proof.Machine.execWReservedD ign data s
  | .wReservedE ign data => Sys2Proof.Machine.execWReservedE ign data s
  | .wTest ign data => Sys2Proof.Machine.execWTest ign data s

end Sys2Proof.Machine
end

