-- ==== Sys2Proof/Machine/Step.lean ====
section
/-!
DEFINITION. One step: the block's reset where the host applies it, between two commands or within one, else a stand-alone wire frame that is due, else the
command word the host presents (spec/30_encoding.md rule R70). With nothing presented the block is idle
(spec/60_exceptions.md rule R246), and a hung block stays as it is (rule R234).
-/

namespace Sys2Proof.Machine

/-- The chip whose frame a stand-alone latch decodes (R134), where the chain has one. -/
def latchedChip (s : State) : Option Chip :=
  match s.chain with
  | none => none
  | some c => c.chips[s.latchPos]?

/-- The state in which a stand-alone wire frame is executed: it is no longer due. -/
def takeFrame (s : State) : State := { s with latchDue := false }

/-- The state in which a command word is executed: the port shows what the host presents next (R70). -/
def takeCommand (s : State) : State := { s with port := s.port.tail }

/-- A stand-alone latch: the frame is fetched from the shift register at `latchPos` (R134). -/
def stepFrame (s : State) : Host.Outcome State Fault Refusal :=
  match s.chain with
  | none => .refused .chainRefused
  | some _ =>
    match latchedChip s with
    | none => .fault .chainPosition
    | some chip => exec (decodeFrame chip.sr) (takeFrame s)

/-- The command port: a hung block accepts nothing (R234), an idle one waits (R260), else the word is executed (R70). -/
def stepCommand (s : State) : Host.Outcome State Fault Refusal :=
  if s.hung then .next s
  else
    match s.port with
    | [] => .next s
    | w :: _ => exec (decodeCommand w) (takeCommand s)

/-- The block's reset (R260). It abandons any command in progress: a hung TICK, or the presented command after its first
`n` line writes. With `n = 0`, or with no command to start, nothing is in progress but a hang. -/
def stepReset (n : Nat) (s : State) : Host.Outcome State Fault Refusal :=
  if n = 0 || s.hung then .next (applyReset s)
  else
    match s.port with
    | [] => .next (applyReset s)
    | w :: _ => abandonCommand n s (exec (decodeCommand w) (takeCommand s))

/-- One step of the machine. -/
def step (s : State) : Host.Outcome State Fault Refusal :=
  if s.cfg.wf then
    match s.resetReq with
    | some n => stepReset n s
    | none => if s.latchDue then stepFrame s else stepCommand s
  else .refused .illFormedConfig

/-- The chain with a wire frame in the shift register of one position. -/
def withFrame (pos : Nat) (w : BitVec 16) (c : Chain) : Chain :=
  { c with chips := c.chips.modify pos fun chip => { chip with sr := w } }

/-- The state with an instruction placed where `step` fetches its next one: a wire frame (16 bits or fewer) in the shift
register at `latchPos` with its latch due, a command word in front of the host's port. Nothing else changes but the two
fields that would make `step` do something else first. A hung block stays hung: no placed word runs in it (R234). -/
def State.withFetchWord (s : State) (nbits w : Nat) : State :=
  if nbits ≤ 16 then
    { s with
      chain := s.chain.map (withFrame s.latchPos (BitVec.ofNat 16 w))
      latchDue := true
      resetReq := none }
  else
    { s with
      port := BitVec.ofNat 32 w :: s.port
      latchDue := false
      resetReq := none }

end Sys2Proof.Machine
end

