-- ==== Sys2Proof/Machine/Assembler.lean ====
section
/-!
DEFINITION. The host's side of the command port: the startup sequence (spec/70_reset_and_hazards.md rule R263), the
pseudo-commands and their expansions (spec/30_encoding.md rule R86), and the textual form of one command line (rule
R85). What they produce are command words for `State.port`; the machine itself never sees the text.
-/

namespace Sys2Proof.Machine

/-- One line of the textual form, with its numbers as they are written (R85, R86). -/
inductive AsmCommand where
  | configure (reg val : Nat)
  | render
  | newGame
  | tick (h v : Nat)
  | boot
  | setScanLimit (n : Nat)
  | setDecodeMode (n : Nat)
  | displayTest (b : Nat)
  | shutdown
  | wake
  | setIntensity (n : Nat)
  | broadcastRow (r v : Nat)
  | tickNeutral
  | tickUp
  | tickDown
  | tickLeft
  | tickRight
deriving DecidableEq, Repr

/-- Why the assembler refuses a line. -/
inductive AsmError where
  /-- An operand is outside its range (R85). -/
  | outOfRange
  /-- The line is not of the form of R85 or R86. -/
  | malformed
deriving DecidableEq, Repr

/-- `configure REG, VAL` with both operands 0 to 255 (R85). -/
def asmConfigure (reg val : Nat) : Except AsmError (List Instr) :=
  if reg < 256 ∧ val < 256 then .ok [.configure (BitVec.ofNat 8 reg) (BitVec.ofNat 8 val)] else .error .outOfRange

/-- `tick H, V` with both operands 0 to 1023 (R85). -/
def asmTick (h v : Nat) : Except AsmError (List Instr) :=
  if h < 1024 ∧ v < 1024 then .ok [.tick (BitVec.ofNat 10 h) (BitVec.ofNat 10 v)] else .error .outOfRange

/-- The startup sequence in the order of R263, with the values of R81 and the addresses of `REG_ADDR` (R80). -/
def startup (a : RegAddr) : List Instr :=
  [.configure a.scanLimit 0x07#8, .configure a.decodeMode 0x00#8, .configure a.displayTest 0x00#8,
    .configure a.shutdown 0x01#8, .configure a.intensity 0x0F#8]

/-- The row-select address byte of the row `r`, 0 to 7 (R82, R86). -/
def asmBroadcastRow (cfg : Config) (r v : Nat) : Except AsmError (List Instr) :=
  if h : r < 8 then asmConfigure (cfg.rowAddr[r]'h).toNat v else .error .outOfRange

/-- The commands a line stands for (R85, R86). DESIGN CHOICE (notes/assumptions/19.md): the four `tick_` directions stand for
the same readings under every `JOY_MAP`; R86 gives their expansions for the default alone. -/
def AsmCommand.expand (cfg : Config) : AsmCommand → Except AsmError (List Instr)
  | .configure reg val => asmConfigure reg val
  | .render => .ok [.render]
  | .newGame => .ok [.newGame]
  | .tick h v => asmTick h v
  | .boot => .ok (startup cfg.regAddr)
  | .setScanLimit n => asmConfigure cfg.regAddr.scanLimit.toNat n
  | .setDecodeMode n => asmConfigure cfg.regAddr.decodeMode.toNat n
  | .displayTest b => asmConfigure cfg.regAddr.displayTest.toNat b
  | .shutdown => asmConfigure cfg.regAddr.shutdown.toNat 0x00
  | .wake => asmConfigure cfg.regAddr.shutdown.toNat 0x01
  | .setIntensity n => asmConfigure cfg.regAddr.intensity.toNat n
  | .broadcastRow r v => asmBroadcastRow cfg r v
  | .tickNeutral => asmTick 512 512
  | .tickUp => asmTick 512 0
  | .tickDown => asmTick 512 1023
  | .tickLeft => asmTick 0 512
  | .tickRight => asmTick 1023 512

/-- The word of a command of the port; a wire frame has none (R70). -/
def commandWord (i : Instr) : Option (BitVec 32) :=
  match encode i with
  | .command w => some w
  | .frame _ => none

/-- A character that only separates (notes/assumptions/19.md). -/
def isBlank (c : Char) : Bool := c == ' ' || c == '\t' || c == '\r'

/-- The tokens of a line: runs of other characters, and each comma on its own. `cur` is the run being read, last
character first. -/
def tokens (cur : List Char) : List Char → List (List Char)
  | [] => if cur.isEmpty then [] else [cur.reverse]
  | c :: rest =>
    if isBlank c then (if cur.isEmpty then [] else [cur.reverse]) ++ tokens [] rest
    else if c == ',' then (if cur.isEmpty then [] else [cur.reverse]) ++ [','] :: tokens [] rest
    else tokens (c :: cur) rest

/-- The value of a digit in a base, where the character is one. -/
def digitValue (base : Nat) (c : Char) : Option Nat :=
  let n := c.toNat
  let d :=
    if '0'.toNat ≤ n ∧ n ≤ '9'.toNat then some (n - '0'.toNat)
    else if 'a'.toNat ≤ n ∧ n ≤ 'f'.toNat then some (n - 'a'.toNat + 10)
    else if 'A'.toNat ≤ n ∧ n ≤ 'F'.toNat then some (n - 'A'.toNat + 10)
    else none
  d.filter (· < base)

/-- A run of digits, most significant first. -/
def readDigits (base : Nat) (acc : Nat) : List Char → Option Nat
  | [] => some acc
  | c :: rest =>
    match digitValue base c with
    | some d => readDigits base (acc * base + d) rest
    | none => none

/-- A number: decimal, or hexadecimal after `0x` (R85). -/
def readNumber : List Char → Option Nat
  | [] => none
  | '0' :: 'x' :: [] => none
  | '0' :: 'x' :: rest => readDigits 16 0 rest
  | cs => readDigits 10 0 cs

/-- A command without operands (R85, R86). -/
def readPlain (name : List Char) : Option AsmCommand :=
  if name = "render".toList then some .render
  else if name = "new_game".toList then some .newGame
  else if name = "boot".toList then some .boot
  else if name = "shutdown".toList then some .shutdown
  else if name = "wake".toList then some .wake
  else if name = "tick_neutral".toList then some .tickNeutral
  else if name = "tick_up".toList then some .tickUp
  else if name = "tick_down".toList then some .tickDown
  else if name = "tick_left".toList then some .tickLeft
  else if name = "tick_right".toList then some .tickRight
  else none

/-- A command with one operand (R86). -/
def readUnary (name : List Char) (n : Nat) : Option AsmCommand :=
  if name = "set_scan_limit".toList then some (.setScanLimit n)
  else if name = "set_decode_mode".toList then some (.setDecodeMode n)
  else if name = "display_test".toList then some (.displayTest n)
  else if name = "set_intensity".toList then some (.setIntensity n)
  else none

/-- A command with two operands (R85, R86). -/
def readBinary (name : List Char) (a b : Nat) : Option AsmCommand :=
  if name = "configure".toList then some (.configure a b)
  else if name = "tick".toList then some (.tick a b)
  else if name = "broadcast_row".toList then some (.broadcastRow a b)
  else none

/-- One line: nothing, or one command; a `;` starts a comment (R85). -/
def readLine (line : List Char) : Except AsmError (Option AsmCommand) :=
  match tokens [] (line.takeWhile (· != ';')) with
  | [] => .ok none
  | [name] =>
    match readPlain name with
    | some c => .ok (some c)
    | none => .error .malformed
  | [name, a] =>
    match readNumber a with
    | some a =>
      match readUnary name a with
      | some c => .ok (some c)
      | none => .error .malformed
    | none => .error .malformed
  | [name, a, [','], b] =>
    match readNumber a, readNumber b with
    | some a, some b =>
      match readBinary name a b with
      | some c => .ok (some c)
      | none => .error .malformed
    | _, _ => .error .malformed
  | _ => .error .malformed

/-- The command words of one line (R85, R86). -/
def assembleLine (cfg : Config) (line : List Char) : Except AsmError (List (BitVec 32)) :=
  match readLine line with
  | .error e => .error e
  | .ok none => .ok []
  | .ok (some c) =>
    match c.expand cfg with
    | .error e => .error e
    | .ok is => .ok (is.filterMap commandWord)

end Sys2Proof.Machine
end

