-- ==== Sys2Proof/Machine/Trace.lean ====
section
/-!
DEFINITION. The line writes of the bus primitives as lists of events (spec/40_driver.md rules R101 to R104, R106, R115),
in which claims about the bus trace are stated, and a run of line writes as one operation.
-/

namespace Sys2Proof.Machine

/-- The three writes of `send_bit(b)` (R101). -/
def bitEvents (b : Bool) : List BusEvent := [⟨.clk, false⟩, ⟨.din, b⟩, ⟨.clk, true⟩]

/-- The 48 writes of one wire frame: the bits of `W = {addr, data}` from 15 down to 0 (R52, R75, R103). -/
def frameEvents (a d : Byte) : List BusEvent :=
  (List.range 16).reverse.flatMap fun i => bitEvents ((a ++ d).getLsbD i)

/-- The writes of one latch frame (R76, R104). -/
def latchEvents (frames : List (Byte × Byte)) : List BusEvent :=
  ⟨.load, false⟩ :: frames.flatMap (fun f => frameEvents f.1 f.2) ++ [⟨.load, true⟩]

/-- The bus trace of one CONFIGURE (R106). -/
def configureEvents (mc : Nat) (reg val : Byte) : List BusEvent :=
  latchEvents (List.replicate mc (reg, val))

/-- The bus trace of one RENDER: rows 0 to 7, each one latch frame with module `MC-1` first (R110 to R113). -/
def renderEvents (cfg : Config) (pix : Memory) : List BusEvent :=
  rowOrder.flatMap fun r =>
    latchEvents ((List.range cfg.mc).reverse.map fun m => (rowAddress cfg r, readPix cfg.mc pix r m))

/-- Line writes one after the other. -/
def emit (es : List BusEvent) (s : State) : State :=
  es.foldl (fun s e => lineWrite e.line e.level s) s

end Sys2Proof.Machine
end

