-- ==== Sys2Proof/Safety.lean ====
section
/-!
DEFINITION. What claims call a good state: the running invariants of spec/42_engine_game.md rule R170, the legal values
of spec/10_state.md rules R24 to R30, and a run that is in service (spec/60_exceptions.md rules R231 and R234).
-/

namespace Sys2Proof.Machine

/-- The running invariants I1 to I6 of R170. I7 holds by definition: the lock axis is `axis(S.DIR)` (R26). -/
structure GameInv (s : State) : Prop where
  /-- I1: `3 ≤ L ≤ CAP − 1`. -/
  lengthInRange : 3 ≤ s.length ∧ s.length ≤ s.cfg.cap - 1
  /-- I1: `L ≤ s ≤ CAP − 1`. -/
  stepperInRange : s.length ≤ s.stepper ∧ s.stepper ≤ s.cfg.cap - 1
  /-- I2: `S.HEAD = TRAIL[s − 1]`. -/
  headIsNewest : s.trail[s.stepper - 1]? = some s.head
  /-- I3: every cell of the window is valid. -/
  windowValid : ∀ c ∈ s.window, c.valid s.cfg.mc = true
  /-- I3: the window's cells are pairwise distinct. -/
  windowDistinct : s.window.Nodup
  /-- I4: every slot outside the window is ZERO. -/
  outsideZero : ∀ i, i < s.cfg.cap → i < s.stepper - s.length ∨ s.stepper ≤ i → s.trail[i]? = some Cell.zero
  /-- I5: the food is not in the window. -/
  foodOffSnake : s.food.toCell ∉ s.window
  /-- I6: exactly the window and the food are lit. -/
  litExactly : ∀ c : Cell, c.valid s.cfg.mc = true → (lit s.cfg.mc s.pix c = true ↔ c ∈ s.window ∨ c = s.food.toCell)

/-- The legal states: an admitted configuration (R8), every element within its legal values (R24, R25, R28 to R30,
R50), the Pixel Buffer in its canonical form, and the running invariants of R170 unless the block is hung in a TICK
(R234). -/
structure LegalState (s : State) : Prop where
  configAdmitted : s.cfg.wf = true
  trailLength : s.trail.length = s.cfg.cap
  pixCanonical : s.pix.wf = true
  pixInSpace : ∀ a ∈ s.pix, a.1 < 8 * s.cfg.mc
  foodOnGrid : s.food.valid s.cfg.mc = true
  headOnGrid : s.head.valid s.cfg.mc = true
  chainLength : ∀ c, s.chain = some c → c.chips.length = s.cfg.chainLen
  game : s.hung = false → GameInv s

/-- The machine is in service: no fault recorded (a faulted state is never final, R231), no hung TICK (R234), and the
chain model not refused (R137). -/
def State.inService (s : State) : Bool := s.accepting && s.chain.isSome

/-- The named display registers (R30). -/
def displayRegs : List DisplayReg :=
  [.digit 0#3, .digit 1#3, .digit 2#3, .digit 3#3, .digit 4#3, .digit 5#3, .digit 6#3, .digit 7#3,
    .decodeMode, .intensity, .scanLimit, .shutdown, .displayTest]

/-- `REG_ADDR` and `ROW_ADDR` put every named register at an address of the register file, no two at one. -/
def addressesApart (cfg : Config) : Bool :=
  displayRegs.all (fun r => (fileSlot (chipAddress cfg r)).isSome) && decide (displayRegs.map (chipAddress cfg)).Nodup

/-- An instruction of the command port, as against a wire frame (R70, R74). -/
def isCommand (i : Instr) : Bool := (commandWord i).isSome

/-- The wire frames that write a display register, each with the register it names by default (R80, R135). -/
def frameRows (ign : BitVec 4) (data : Byte) : List (Instr × DisplayReg) :=
  [(.wDigit0 ign data, .digit 0#3), (.wDigit1 ign data, .digit 1#3), (.wDigit2 ign data, .digit 2#3),
    (.wDigit3 ign data, .digit 3#3), (.wDigit4 ign data, .digit 4#3), (.wDigit5 ign data, .digit 5#3),
    (.wDigit6 ign data, .digit 6#3), (.wDigit7 ign data, .digit 7#3), (.wDecode ign data, .decodeMode),
    (.wIntensity ign data, .intensity), (.wScanLimit ign data, .scanLimit), (.wShutdown ign data, .shutdown),
    (.wTest ign data, .displayTest)]

/-- Commands executed one after the other; nothing as soon as one has no next state. -/
def execSeq : List Instr → State → Option State
  | [], s => some s
  | i :: rest, s =>
    match exec i s with
    | .next t => execSeq rest t
    | .fault _ => none
    | .refused _ => none

/-- A TICK may run: an admitted configuration, no fault, no hang, and the game running (R190, R238). -/
def State.tickRuns (s : State) : Bool := s.cfg.wf && s.accepting && s.phase == .running

end Sys2Proof.Machine
end

