-- ==== Sys2Proof/Certificates/Slice0/Obligations.lean ====
section
/-!
DEFINITION. The statements for the provers. Each docstring names the rules of spec/ it formalises, and what in it is the
model's own choice.
-/

open Sys2Proof Sys2Proof.Machine

/-! ### Encoding -/

/-- All twenty command words of spec/95_test_vectors.md section 2.1, the five wire frames of R81, and one wire frame of each
of the sixteen rows (R80, R83, R84), one of them with ignored bits set. That ILLEGAL carries its word and a frame its
ignored bits is the model's own (notes/assumptions/17.md, 20.md). -/
def Obligations.ListedWordsDecode : Prop :=
  decodeCommand 0x10000B07#32 = .configure 0x0B#8 0x07#8 ∧
  decodeCommand 0x100000FF#32 = .configure 0x00#8 0xFF#8 ∧
  decodeCommand 0x1000FFFF#32 = .configure 0xFF#8 0xFF#8 ∧
  decodeCommand 0x20000000#32 = .render ∧
  decodeCommand 0x30000000#32 = .newGame ∧
  decodeCommand 0x40080200#32 = .tick 512#10 512#10 ∧
  decodeCommand 0x40000200#32 = .tick 512#10 0#10 ∧
  decodeCommand 0x400FFE00#32 = .tick 512#10 1023#10 ∧
  decodeCommand 0x40080000#32 = .tick 0#10 512#10 ∧
  decodeCommand 0x400803FF#32 = .tick 1023#10 512#10 ∧
  decodeCommand 0x400FFFFF#32 = .tick 1023#10 1023#10 ∧
  decodeCommand 0x40000000#32 = .tick 0#10 0#10 ∧
  decodeCommand 0x00000000#32 = .illegal 0x00000000#32 ∧
  decodeCommand 0x50000000#32 = .illegal 0x50000000#32 ∧
  decodeCommand 0xF0000000#32 = .illegal 0xF0000000#32 ∧
  decodeCommand 0x10010000#32 = .illegal 0x10010000#32 ∧
  decodeCommand 0x18000B07#32 = .illegal 0x18000B07#32 ∧
  decodeCommand 0x20000001#32 = .illegal 0x20000001#32 ∧
  decodeCommand 0x30100000#32 = .illegal 0x30100000#32 ∧
  decodeCommand 0x40100000#32 = .illegal 0x40100000#32 ∧
  decodeFrame 0x0B07#16 = .wScanLimit 0x0#4 0x07#8 ∧
  decodeFrame 0x0900#16 = .wDecode 0x0#4 0x00#8 ∧
  decodeFrame 0x0F00#16 = .wTest 0x0#4 0x00#8 ∧
  decodeFrame 0x0C01#16 = .wShutdown 0x0#4 0x01#8 ∧
  decodeFrame 0x0A0F#16 = .wIntensity 0x0#4 0x0F#8 ∧
  decodeFrame 0x0055#16 = .wNoop 0x0#4 0x55#8 ∧
  decodeFrame 0x0181#16 = .wDigit0 0x0#4 0x81#8 ∧
  decodeFrame 0x0201#16 = .wDigit1 0x0#4 0x01#8 ∧
  decodeFrame 0x0303#16 = .wDigit2 0x0#4 0x03#8 ∧
  decodeFrame 0x0405#16 = .wDigit3 0x0#4 0x05#8 ∧
  decodeFrame 0x0514#16 = .wDigit4 0x0#4 0x14#8 ∧
  decodeFrame 0x0609#16 = .wDigit5 0x0#4 0x09#8 ∧
  decodeFrame 0x070B#16 = .wDigit6 0x0#4 0x0B#8 ∧
  decodeFrame 0x080D#16 = .wDigit7 0x0#4 0x0D#8 ∧
  decodeFrame 0x1B03#16 = .wScanLimit 0x1#4 0x03#8 ∧
  decodeFrame 0x0D00#16 = .wReservedD 0x0#4 0x00#8 ∧
  decodeFrame 0xFEFF#16 = .wReservedE 0xF#4 0xFF#8

/-- R71, R73, R74, R80, R83: decoding the word of a well-formed instruction gives the instruction back, for every
instruction and every value of its operands. -/
def Obligations.DecodeOfEncodeIsIdentity : Prop :=
  ∀ i : Instr, i.wellFormed = true → decode (encode i) = i

/-- The formats of R71, R78 and R83 leave no word out: every word of either receiver decodes to a well-formed instruction
whose word it is. That no two words decode alike is the model's own: ILLEGAL carries its word, which R232 does not keep
(notes/assumptions/17.md), and a frame carries the bits W[15:12], which R83 ignores (notes/assumptions/20.md). -/
def Obligations.EncodeOfDecodeIsIdentity : Prop :=
  ∀ e : Encoded, encode (decode e) = e ∧ (decode e).wellFormed = true

/-- R78: exactly the words with a reserved OP, or with a must-be-zero bit that is not zero, spell no command; the
all-zero word is one of them; and presenting one raises IllegalCommand, which changes FAULT and nothing else (R232), in
every phase. -/
def Obligations.ReservedWordsRaiseIllegalCommand : Prop :=
  (∀ w : BitVec 32,
    ((w.extractLsb' 28 4).toNat = 0 ∨ 5 ≤ (w.extractLsb' 28 4).toNat ∨
      (w.extractLsb' 28 4).toNat = 1 ∧ w.extractLsb' 16 12 ≠ 0#12 ∨
      ((w.extractLsb' 28 4).toNat = 2 ∨ (w.extractLsb' 28 4).toNat = 3) ∧ w.extractLsb' 0 28 ≠ 0#28 ∨
      (w.extractLsb' 28 4).toNat = 4 ∧ w.extractLsb' 20 8 ≠ 0#8) ↔
    decodeCommand w = .illegal w) ∧
  decodeCommand 0x00000000#32 = .illegal 0x00000000#32 ∧
  ∀ (w : BitVec 32) (s : State), s.cfg.wf = true → s.accepting = true →
    exec (.illegal w) s = .next { s with fault := some .illegalCommand }

/-- R85, R86 and R263, the host's side of the port; the textual form is the spec's decision D4 and the addresses are general
knowledge. For every operand: the words of the four commands and their refusal out of range, and, under the defaults, what
each pseudo-command stands for, with the five words of `boot`. Of the text itself: numbers up to 1023 are read from their
decimal digits and from their hexadecimal digits after 0x, and one line of each command, and of a comment, assembles to
its words (how blanks and case are read is notes/assumptions/19.md). -/
def Obligations.AssembledWords : Prop :=
  (∀ (cfg : Config) (reg val : Nat), reg < 256 → val < 256 → ∃ i, (AsmCommand.configure reg val).expand cfg = .ok [i] ∧
    commandWord i = some (0x10000000#32 ||| BitVec.ofNat 32 reg <<< 8 ||| BitVec.ofNat 32 val)) ∧
  (∀ (cfg : Config) (h v : Nat), h < 1024 → v < 1024 → ∃ i, (AsmCommand.tick h v).expand cfg = .ok [i] ∧
    commandWord i = some (0x40000000#32 ||| BitVec.ofNat 32 v <<< 10 ||| BitVec.ofNat 32 h)) ∧
  (∀ cfg : Config, (AsmCommand.render.expand cfg = .ok [.render] ∧ commandWord .render = some 0x20000000#32) ∧
    (AsmCommand.newGame.expand cfg = .ok [.newGame] ∧ commandWord .newGame = some 0x30000000#32)) ∧
  (∀ (cfg : Config) (reg val : Nat), ¬(reg < 256 ∧ val < 256) →
    (AsmCommand.configure reg val).expand cfg = .error .outOfRange) ∧
  (∀ (cfg : Config) (h v : Nat), ¬(h < 1024 ∧ v < 1024) → (AsmCommand.tick h v).expand cfg = .error .outOfRange) ∧
  (∀ n r : Nat, let std := Config.standard
    (AsmCommand.setScanLimit n).expand std = (AsmCommand.configure 0x0B n).expand std ∧
    (AsmCommand.setDecodeMode n).expand std = (AsmCommand.configure 0x09 n).expand std ∧
    (AsmCommand.displayTest n).expand std = (AsmCommand.configure 0x0F n).expand std ∧
    AsmCommand.shutdown.expand std = (AsmCommand.configure 0x0C 0x00).expand std ∧
    AsmCommand.wake.expand std = (AsmCommand.configure 0x0C 0x01).expand std ∧
    (AsmCommand.setIntensity n).expand std = (AsmCommand.configure 0x0A n).expand std ∧
    (r < 8 → (AsmCommand.broadcastRow r n).expand std = (AsmCommand.configure (r + 1) n).expand std) ∧
    (8 ≤ r → (AsmCommand.broadcastRow r n).expand std = .error .outOfRange) ∧
    AsmCommand.tickNeutral.expand std = (AsmCommand.tick 512 512).expand std ∧
    AsmCommand.tickUp.expand std = (AsmCommand.tick 512 0).expand std ∧
    AsmCommand.tickDown.expand std = (AsmCommand.tick 512 1023).expand std ∧
    AsmCommand.tickLeft.expand std = (AsmCommand.tick 0 512).expand std ∧
    AsmCommand.tickRight.expand std = (AsmCommand.tick 1023 512).expand std) ∧
  (∃ is, AsmCommand.boot.expand Config.standard = .ok is ∧ is.filterMap commandWord =
    [0x10000B07#32, 0x10000900#32, 0x10000F00#32, 0x10000C01#32, 0x10000A0F#32]) ∧
  (∀ n, n < 1024 → readNumber (Nat.toDigits 10 n) = some n ∧ readNumber ('0' :: 'x' :: Nat.toDigits 16 n) = some n) ∧
  assembleLine Config.standard "configure 0x0B, 0x07 ; scan limit".toList = .ok [0x10000B07#32] ∧
  assembleLine Config.standard "render".toList = .ok [0x20000000#32] ∧
  assembleLine Config.standard "new_game".toList = .ok [0x30000000#32] ∧
  assembleLine Config.standard "tick 512, 1023".toList = .ok [0x400FFE00#32] ∧
  assembleLine Config.standard "boot".toList =
    .ok [0x10000B07#32, 0x10000900#32, 0x10000F00#32, 0x10000C01#32, 0x10000A0F#32] ∧
  assembleLine Config.standard "; nothing".toList = .ok [] ∧
  assembleLine Config.standard "configure 256, 0".toList = .error .outOfRange ∧
  assembleLine Config.standard "tick 0, 1024".toList = .error .outOfRange

/-! ### Faults, and what a step runs -/

/-- R231: raising a fault records the cause and changes nothing else; an instruction that raises one leaves everything else
as it was; from then on every command has no effect; and no step but the reset clears or changes the fault. -/
def Obligations.FaultedBlockIsQuiescent : Prop :=
  (∀ (cause : FaultCause) (s : State), raiseFault cause s = { s with fault := some cause }) ∧
  (∀ (i : Instr) (s t : State), exec i s = .next t → t.fault ≠ s.fault →
    s.fault = none ∧ ∃ cause, t = { s with fault := some cause }) ∧
  (∀ (i : Instr) (s : State), isCommand i = true → s.cfg.wf = true → s.fault.isSome = true →
    exec i s = .next s) ∧
  ∀ s t : State, s.fault.isSome = true → s.resetReq = none → step s = .next t → t.fault = s.fault

/-- R70 and R134 with the model's two fetches (notes/assumptions/8.md, 11.md): with no reset applied, a step runs the
instruction decoded from the command word presented, with that word taken from the port; or, where a stand-alone latch is
due, the one decoded from the shift register at `latchPos`, with the latch no longer due. An idle block waits. -/
def Obligations.StepRunsTheDecodedInstruction : Prop :=
  ∀ s : State, s.cfg.wf = true → s.resetReq = none →
    (∀ (w : BitVec 32) (rest : List (BitVec 32)), s.latchDue = false → s.hung = false → s.port = w :: rest →
      step s = exec (decodeCommand w) { s with port := rest }) ∧
    (∀ (c : Chain) (chip : Chip), s.latchDue = true → s.chain = some c → c.chips[s.latchPos]? = some chip →
      step s = exec (decodeFrame chip.sr) { s with latchDue := false }) ∧
    (s.latchDue = false → s.port = [] → step s = .next s)

/-- R8 and R6: a configuration that fails a check of R8 has no step and no command, and no step changes the
configuration. -/
def Obligations.ConfigurationIsCheckedAndFixed : Prop :=
  (∀ s : State, s.cfg.wf = false →
    step s = .refused .illFormedConfig ∧ ∀ i, isCommand i = true → exec i s = .refused .illFormedConfig) ∧
  (∀ cfg : Config, cfg.wf = true ↔
    1 ≤ cfg.mc ∧ 4 ≤ cfg.cap ∧ cfg.initTrail.length = 3 ∧ cfg.initTrail.Nodup ∧
      (∀ c ∈ cfg.initTrail, c.module < cfg.mc ∧ ∃ k : BitVec 3, c.columnBit = 0x01#8 <<< k.toNat) ∧
      cfg.chainLen = cfg.mc) ∧
  ∀ s t : State, step s = .next t → t.cfg = s.cfg

/-- In every legal state every command of the port answers a next state: no command stops the machine (R11: an index
outside its space is never produced). It rests on the model's own readings: a food draw returns whenever a cell is free,
which is the spec's assumption U7 and errs toward proving (notes/assumptions/3.md); a TICK that never completes is a next
state too, with `hung` set (notes/assumptions/9.md); and a command executed in a hung block changes nothing
(notes/assumptions/24.md). -/
def Obligations.CommandsCompleteInLegalStates : Prop :=
  ∀ (i : Instr) (s : State), LegalState s → isCommand i = true → ∃ t, exec i s = .next t

/-! ### Matrix Driver -/

/-- R101: each bit is the three writes CLK 0, DIN b, CLK 1, in this order, and nothing else, so DIN changes only while CLK
is 0 and each bit makes one CLK rising edge, after its DIN write. (That the clock is lowered first is the spec's decision
D7.) -/
def Obligations.SendBitWritesClockDataClock : Prop :=
  ∀ (b : Bool) (s : State),
    sendBit b s = emit [⟨.clk, false⟩, ⟨.din, b⟩, ⟨.clk, true⟩] s ∧
    (sendBit b s).bus = s.bus ++ [⟨.clk, false⟩, ⟨.din, b⟩, ⟨.clk, true⟩] ∧
    (sendBit b s).clk = true ∧ (sendBit b s).din = b ∧ (sendBit b s).load = s.load

/-- R103, with the bit order of R52 and R75: sending one frame is exactly 48 line writes with 16 CLK rising edges: the bits
of the address byte and then the data byte, bit 15 first and bit 0 last. -/
def Obligations.WireFrameIsSentMsbFirst : Prop :=
  ∀ (a d : Byte) (s : State), ∃ es : List BusEvent, sendFrame a d s = emit es s ∧
    (sendFrame a d s).bus = s.bus ++ es ∧ es.length = 48 ∧ es.count ⟨.clk, true⟩ = 16 ∧
    es = [15, 14, 13, 12, 11, 10, 9, 8, 7, 6, 5, 4, 3, 2, 1, 0].flatMap fun i =>
      [⟨.clk, false⟩, ⟨.din, (a ++ d).getLsbD i⟩, ⟨.clk, true⟩]

/-- R105: CONFIGURE is format C with OP 0x1. Accepted, it sends the pair unchanged to every module in one latch frame and
changes nothing else of the block, in every phase; the chain sees exactly those writes. Faulted, it does nothing. -/
def Obligations.ConfigureBroadcastsOneWrite : Prop :=
  ∀ (reg val : Byte), encode (.configure reg val) = .command (0x1#4 ++ 0x000#12 ++ reg ++ val) ∧
    ∀ s : State, s.cfg.wf = true →
      (s.fault.isSome = true → exec (.configure reg val) s = .next s) ∧
      (s.accepting = true → exec (.configure reg val) s = .next
        { s with
          clk := true
          load := true
          din := val.getLsbD 0
          bus := s.bus ++ latchEvents (List.replicate s.cfg.mc (reg, val))
          chain := watch s.chain (latchEvents (List.replicate s.cfg.mc (reg, val))) })

/-- R106: one CONFIGURE is `2 + 48*MC` line writes: LOAD 0, then `MC` copies of the 48 writes of the frame, then LOAD 1. -/
def Obligations.ConfigureTraceShape : Prop :=
  ∀ (reg val : Byte) (s : State), s.cfg.wf = true → s.accepting = true →
    ∃ t es, exec (.configure reg val) s = .next t ∧ t.bus = s.bus ++ es ∧ es.length = 2 + 48 * s.cfg.mc ∧
      es = ⟨.load, false⟩ :: (List.replicate s.cfg.mc (frameEvents reg val)).flatten ++ [⟨.load, true⟩] ∧
      (frameEvents reg val).length = 48

/-- R110, with R111 to R113: RENDER is format N with OP 0x2. Accepted, it sends rows 0 to 7, each in one latch frame with
the row's address and the bytes of modules `MC-1` down to 0, and changes nothing else of the block, in every phase (R116).
Faulted, it does nothing. -/
def Obligations.RenderSendsPixelBuffer : Prop :=
  encode .render = .command (0x2#4 ++ 0x0000000#28) ∧
  ∀ s : State, s.cfg.wf = true →
    let es : List BusEvent := [0#3, 1#3, 2#3, 3#3, 4#3, 5#3, 6#3, 7#3].flatMap fun r : BitVec 3 =>
      latchEvents ((List.range s.cfg.mc).reverse.map fun m => (rowAddress s.cfg r, readPix s.cfg.mc s.pix r m))
    (s.fault.isSome = true → exec .render s = .next s) ∧
    (s.accepting = true → exec .render s = .next
      { s with
        clk := true
        load := true
        din := (readPix s.cfg.mc s.pix 7#3 0).getLsbD 0
        bus := s.bus ++ es
        chain := watch s.chain es })

/-- R115: one RENDER is `8 * (2 + 48*MC)` line writes in eight latch frames of `16*MC` bits: LOAD 0, the bits, LOAD 1. Every
bit is CLK 0, DIN, CLK 1, so each of the `128*MC` CLK 1 writes is a rising edge after its own CLK 0; there are 8 LOAD 0 and
8 LOAD 1 writes, alternating. -/
def Obligations.RenderTraceShape : Prop :=
  ∀ s : State, s.cfg.wf = true → s.accepting = true →
    ∃ t es, exec .render s = .next t ∧ t.bus = s.bus ++ es ∧ es.length = 8 * (2 + 48 * s.cfg.mc) ∧
      (∃ rowBits : List (List Bool), rowBits.length = 8 ∧ (∀ bits ∈ rowBits, bits.length = 16 * s.cfg.mc) ∧
        es = rowBits.flatMap fun bits =>
          ⟨.load, false⟩ :: bits.flatMap (fun b => [⟨.clk, false⟩, ⟨.din, b⟩, ⟨.clk, true⟩]) ++ [⟨.load, true⟩]) ∧
      es.count ⟨.load, false⟩ = 8 ∧ es.count ⟨.load, true⟩ = 8 ∧
      es.count ⟨.clk, true⟩ = 128 * s.cfg.mc ∧ es.count ⟨.clk, false⟩ = 128 * s.cfg.mc

/-- R109: the levels of the lines after a CONFIGURE or a RENDER, and that the commands which send nothing leave them. -/
def Obligations.LineLevelsBetweenCommands : Prop :=
  (∀ (reg val : Byte) (s t : State), s.accepting = true → exec (.configure reg val) s = .next t →
    t.clk = true ∧ t.load = true ∧ t.din = val.getLsbD 0) ∧
  (∀ s t : State, s.accepting = true → exec .render s = .next t →
    t.clk = true ∧ t.load = true ∧ t.din = (readPix s.cfg.mc s.pix 7#3 0).getLsbD 0) ∧
  ∀ (i : Instr) (s t : State), isCommand i = true → exec i s = .next t →
    i = .newGame ∨ (∃ h v, i = .tick h v) ∨ (∃ w, i = .illegal w) ∨ s.fault.isSome = true →
    t.clk = s.clk ∧ t.load = s.load ∧ t.din = s.din ∧ t.bus = s.bus

/-- R108 and R100: whatever an instruction appends to the bus trace is whole latch frames of `MC` wire frames each; only
CONFIGURE and RENDER append any; one that does ends with LOAD at 1, and one that does not leaves every line as it was. -/
def Obligations.LinesAreWrittenInWholeLatchFrames : Prop :=
  ∀ (i : Instr) (s t : State), exec i s = .next t →
    ∃ groups : List (List (Byte × Byte)), t.bus = s.bus ++ groups.flatMap latchEvents ∧
      (∀ g ∈ groups, g.length = s.cfg.mc) ∧
      (groups ≠ [] → t.load = true ∧ (i = .render ∨ ∃ reg val, i = .configure reg val)) ∧
      (groups = [] → t.clk = s.clk ∧ t.load = s.load ∧ t.din = s.din)

/-- Frame of CONFIGURE, RENDER and ILLEGAL (R105, R114, R232; vector V7): no engine state, no byte of the Pixel Buffer, no
trail cell, no notice and no input changes. -/
def Obligations.DriverCommandsKeepEngineState : Prop :=
  ∀ (i : Instr) (s t : State), i = .render ∨ (∃ reg val, i = .configure reg val) ∨ (∃ w, i = .illegal w) →
    exec i s = .next t →
    t.phase = s.phase ∧ t.dir = s.dir ∧ t.head = s.head ∧ t.food = s.food ∧ t.length = s.length ∧
      t.stepper = s.stepper ∧ t.trail = s.trail ∧ (∀ a, t.pix.read a = s.pix.read a) ∧ t.notices = s.notices ∧
      t.hung = s.hung ∧ t.cfg = s.cfg ∧ t.port = s.port ∧ t.resetReq = s.resetReq ∧ t.draws = s.draws ∧
      t.drawCount = s.drawCount ∧ t.latchDue = s.latchDue ∧ t.latchPos = s.latchPos ∧
      (t.fault = s.fault ∨ (∃ w, i = .illegal w) ∧ t.fault = some .illegalCommand)

/-! ### Display chain (PRESUMED throughout: the spec's general knowledge, notes/assumptions/6.md) -/

/-- R61: the chain after a command is the chain that has seen exactly the events the command appended to the bus trace, in
their order. -/
def Obligations.ChainSeesWritesInBusOrder : Prop :=
  ∀ (i : Instr) (s t : State), isCommand i = true → exec i s = .next t →
    ∃ es, t.bus = s.bus ++ es ∧ t.chain = watch s.chain es

/-- R107: a command's outcome and everything it leaves in the block are the same whatever the chain holds. -/
def Obligations.BlockLearnsNothingOfTheChain : Prop :=
  ∀ (i : Instr) (s : State) (c : Option Chain), isCommand i = true →
    match exec i s, exec i { s with chain := c } with
    | .next t, .next t' => t' = { t with chain := t'.chain }
    | .fault a, .fault b => a = b
    | .refused a, .refused b => a = b
    | _, _ => False

/-- R133: at a CLK rising edge every position shifts at once: bits 14 to 0 move up, bit 0 takes DIN at position 0 and the
old bit 15 of the position before it elsewhere; no register changes. -/
def Obligations.ChainShiftsOnClockEdge : Prop :=
  ∀ c : Chain, c.clk = false → ∃ c' : Chain, c.see ⟨.clk, true⟩ = some c' ∧ c'.chips.length = c.chips.length ∧
    c'.clk = true ∧ c'.load = c.load ∧ c'.din = c.din ∧
    ∀ (j : Nat) (old : Chip), c.chips[j]? = some old →
      ∃ new : Chip, c'.chips[j]? = some new ∧ new = { old with sr := new.sr } ∧
      (∀ k, k < 15 → new.sr.getLsbD (k + 1) = old.sr.getLsbD k) ∧ (j = 0 → new.sr.getLsbD 0 = c.din) ∧
      ∀ before : Chip, 0 < j → c.chips[j - 1]? = some before → new.sr.getLsbD 0 = before.sr.getLsbD 15

/-- R132: a write that makes no rising edge of CLK or LOAD only updates the kept level. -/
def Obligations.OtherWritesOnlyUpdateKeptLevels : Prop :=
  ∀ (c : Chain) (e : BusEvent),
    ¬(e.level = true ∧ (e.line = .clk ∧ c.clk = false ∨ e.line = .load ∧ c.load = false)) →
    c.see e = some
      { clk := if e.line = .clk then e.level else c.clk
        load := if e.line = .load then e.level else c.load
        din := if e.line = .din then e.level else c.din
        chips := c.chips }

/-- R134 to R137: the register file has exactly the addresses of R135; at a LOAD rising edge every position writes the data
byte of its frame to the register at its address `SR[11:8]`, and nothing else changes; with an address 0xD or 0xE anywhere
the chain has no next state. -/
def Obligations.LatchWritesOneRegisterPerChip : Prop :=
  (∀ (chip : Chip) (a : BitVec 4), chip.reg a = none ↔ a = 0x0#4 ∨ a = 0xD#4 ∨ a = 0xE#4) ∧
  ∀ c : Chain, c.load = false →
    (c.see ⟨.load, true⟩ = none ↔
      ∃ chip ∈ c.chips, chip.sr.extractLsb' 8 4 = 0xD#4 ∨ chip.sr.extractLsb' 8 4 = 0xE#4) ∧
    ∀ c' : Chain, c.see ⟨.load, true⟩ = some c' → c'.chips.length = c.chips.length ∧ c'.load = true ∧
      c'.clk = c.clk ∧ c'.din = c.din ∧
      ∀ (j : Nat) (old : Chip), c.chips[j]? = some old → ∃ new : Chip, c'.chips[j]? = some new ∧ new.sr = old.sr ∧
        ∀ a : BitVec 4, new.reg a =
          if a = old.sr.extractLsb' 8 4 ∧ a ≠ 0x0#4 then some (old.sr.extractLsb' 0 8) else old.reg a

/-- R141: after `latch_begin` and one wire frame for every position, position `j` holds the frame sent `j` before the last;
the register files are as before. -/
def Obligations.FramesLandInReverseOrder : Prop :=
  ∀ (c : Chain) (frames : List (Byte × Byte)), frames.length = c.chips.length →
    ∃ c' : Chain, watch (some c) (⟨.load, false⟩ :: frames.flatMap fun f => frameEvents f.1 f.2) = some c' ∧
      c'.load = false ∧ c'.chips.map (·.sr) = frames.reverse.map (fun f => f.1 ++ f.2) ∧
      ∀ (j : Nat) (old : Chip), c.chips[j]? = some old →
        ∃ new : Chip, c'.chips[j]? = some new ∧ new = { old with sr := new.sr }

/-- R142: after CONFIGURE of an address with a register, every position holds the value there; its other registers are as
before. So CONFIGURE of a register the parameters REG_ADDR and ROW_ADDR name (R6, R80) writes that register. -/
def Obligations.ConfigureReachesEveryChip : Prop :=
  ∀ (reg val : Byte) (s : State) (c : Chain), s.cfg.wf = true → s.accepting = true →
    s.chain = some c → c.chips.length = s.cfg.chainLen →
    reg.extractLsb' 0 4 ≠ 0x0#4 → reg.extractLsb' 0 4 ≠ 0xD#4 → reg.extractLsb' 0 4 ≠ 0xE#4 →
    ∃ (t : State) (c' : Chain), exec (.configure reg val) s = .next t ∧ t.chain = some c' ∧ c'.chips.length = s.cfg.mc ∧
      ∀ (j : Nat) (old : Chip), c.chips[j]? = some old → ∃ new : Chip, c'.chips[j]? = some new ∧
        new.reg (reg.extractLsb' 0 4) = some val ∧
        (∀ a : BitVec 4, a ≠ reg.extractLsb' 0 4 → new.reg a = old.reg a) ∧
        ∀ r : DisplayReg, addressByte s.cfg r = reg → new.named s.cfg r = some val

/-- R143: after RENDER, under row addresses that name eight registers (the parameter ROW_ADDR, by default those of R82),
every position `j` holds module `j` of the Pixel Buffer in its Digit registers; its other registers are as before. -/
def Obligations.RenderReachesEveryChip : Prop :=
  ∀ (s : State) (c : Chain), s.cfg.wf = true → s.accepting = true →
    (∀ r : BitVec 3, (fileSlot (chipAddress s.cfg (.digit r))).isSome = true) →
    (∀ r r' : BitVec 3, chipAddress s.cfg (.digit r) = chipAddress s.cfg (.digit r') → r = r') →
    s.chain = some c → c.chips.length = s.cfg.chainLen →
    ∃ (t : State) (c' : Chain), exec .render s = .next t ∧ t.chain = some c' ∧ c'.chips.length = s.cfg.mc ∧
      ∀ (j : Nat) (old : Chip), c.chips[j]? = some old → ∃ new : Chip, c'.chips[j]? = some new ∧
        (∀ r : BitVec 3, new.named s.cfg (.digit r) = some (readPix s.cfg.mc s.pix r j)) ∧
        ∀ a : BitVec 4, (∀ r : BitVec 3, a ≠ chipAddress s.cfg (.digit r)) → new.reg a = old.reg a

/-- R139, its registers at the addresses of the parameters REG_ADDR and ROW_ADDR (R6): which pixels of a chip are visible,
in the rule's order: display test, shutdown, scan limit, code-B decode (no answer, U8), the digit. And R144 with R263: from
any state with a chain, whatever its registers hold, under any parameters that put the named registers at addresses apart
(the defaults do), the five startup writes in any order and then one RENDER show the Pixel Buffer: every pixel is visible
exactly when its bit is 1. -/
def Obligations.StartupThenRenderShowsPixelBuffer : Prop :=
  (∀ (cfg : Config) (chip : Chip) (r k : BitVec 3) (test shutdown scanLimit decodeMode digit : Byte),
    chip.named cfg .displayTest = some test → chip.named cfg .shutdown = some shutdown →
    chip.named cfg .scanLimit = some scanLimit → chip.named cfg .decodeMode = some decodeMode →
    chip.named cfg (.digit r) = some digit →
    (test.getLsbD 0 = true → chip.lit cfg r k = some true) ∧
    (test.getLsbD 0 = false → shutdown.getLsbD 0 = false → chip.lit cfg r k = some false) ∧
    (test.getLsbD 0 = false → shutdown.getLsbD 0 = true →
      (scanLimit.extractLsb' 0 3).toNat < r.toNat → chip.lit cfg r k = some false) ∧
    (test.getLsbD 0 = false → shutdown.getLsbD 0 = true →
      r.toNat ≤ (scanLimit.extractLsb' 0 3).toNat → decodeMode.getLsbD r.toNat = true → chip.lit cfg r k = none) ∧
    (test.getLsbD 0 = false → shutdown.getLsbD 0 = true →
      r.toNat ≤ (scanLimit.extractLsb' 0 3).toNat → decodeMode.getLsbD r.toNat = false →
      chip.lit cfg r k = some (digit.getLsbD k.toNat))) ∧
  addressesApart Config.standard = true ∧
  ∀ (s : State) (c : Chain) (order : List Instr), s.cfg.wf = true → s.accepting = true →
    addressesApart s.cfg = true → s.chain = some c → c.chips.length = s.cfg.chainLen →
    order.Perm (startup s.cfg.regAddr) →
    ∃ (t : State) (c' : Chain), execSeq (order ++ [.render]) s = some t ∧ t.chain = some c' ∧
      c'.chips.length = s.cfg.mc ∧
      ∀ (j : Nat) (chip : Chip), c'.chips[j]? = some chip → ∀ r k : BitVec 3,
        chip.lit s.cfg r k = some ((readPix s.cfg.mc s.pix r j).getLsbD k.toNat)

/-- R136 and R79: a CONFIGURE whose address a chip reads as 0x0 is sent in full and changes no display register. -/
def Obligations.NoOpConfigureChangesNoRegister : Prop :=
  ∀ (reg val : Byte) (s : State) (c : Chain), s.cfg.wf = true → s.accepting = true →
    s.chain = some c → c.chips.length = s.cfg.chainLen → reg.extractLsb' 0 4 = 0x0#4 →
    ∃ (t : State) (c' : Chain), exec (.configure reg val) s = .next t ∧ t.chain = some c' ∧
      t.bus.length = s.bus.length + (2 + 48 * s.cfg.mc) ∧
      ∀ (j : Nat) (old : Chip), c.chips[j]? = some old →
        ∃ new : Chip, c'.chips[j]? = some new ∧ ∀ a : BitVec 4, new.reg a = old.reg a

/-- R137 and R84: a CONFIGURE of an undefined display address is sent like any other and the block goes on, while the
chain model has no state from then on (notes/assumptions/7.md). -/
def Obligations.UndefinedAddressRefusesOnlyTheChain : Prop :=
  (∀ (reg val : Byte) (s : State) (c : Chain), s.cfg.wf = true → s.accepting = true →
    s.chain = some c → c.chips.length = s.cfg.chainLen →
    reg.extractLsb' 0 4 = 0xD#4 ∨ reg.extractLsb' 0 4 = 0xE#4 →
    ∃ t, exec (.configure reg val) s = .next t ∧ t.chain = none ∧ t.accepting = true ∧
      t.bus.length = s.bus.length + (2 + 48 * s.cfg.mc)) ∧
  ∀ s t : State, s.chain = none → step s = .next t → t.chain = none

/-- R135 on its own (notes/assumptions/8.md): a stand-alone wire frame of Digit 0 to 7, Decode Mode, Intensity, Scan
Limit, Shutdown or Display Test writes its data byte to the register at that address of R80's default map, in the chip at
`latchPos`, whatever its ignored bits and whatever the parameters call that register, and changes nothing else. -/
def Obligations.StandAloneFrameWritesItsRegister : Prop :=
  ∀ (ign : BitVec 4) (d : Byte) (s : State) (c : Chain) (chip : Chip), s.cfg.wf = true → s.chain = some c →
    c.chips[s.latchPos]? = some chip →
    ∀ p ∈ frameRows ign d, ∃ chip' : Chip,
      exec p.1 s = .next { s with chain := some { c with chips := c.chips.set s.latchPos chip' } } ∧
      chip'.sr = chip.sr ∧ chip'.reg (chipAddress Config.standard p.2) = some d ∧
      ∀ a : BitVec 4, a ≠ chipAddress Config.standard p.2 → chip'.reg a = chip.reg a

/-- R136 on its own: a stand-alone No-Op frame changes nothing. -/
def Obligations.StandAloneNoOpChangesNothing : Prop :=
  ∀ (ign : BitVec 4) (d : Byte) (s : State) (c : Chain) (chip : Chip), s.cfg.wf = true → s.chain = some c →
    c.chips[s.latchPos]? = some chip → exec (.wNoop ign d) s = .next s

/-- R137: a stand-alone frame with address 0xD or 0xE is refused in every state; and the other frames stop, by name, where
the chain has been refused or has no such position (R11). -/
def Obligations.StandAloneFrameStops : Prop :=
  (∀ (ign : BitVec 4) (d : Byte) (s : State),
    exec (.wReservedD ign d) s = .refused .undefinedDisplayAddress ∧
    exec (.wReservedE ign d) s = .refused .undefinedDisplayAddress) ∧
  (∀ (ign : BitVec 4) (d : Byte) (s : State), s.cfg.wf = true → s.chain = none →
    exec (.wNoop ign d) s = .refused .chainRefused ∧
    ∀ p ∈ frameRows ign d, exec p.1 s = .refused .chainRefused) ∧
  ∀ (ign : BitVec 4) (d : Byte) (s : State) (c : Chain), s.cfg.wf = true → s.chain = some c →
    c.chips.length ≤ s.latchPos →
    exec (.wNoop ign d) s = .fault .chainPosition ∧ ∀ p ∈ frameRows ign d, exec p.1 s = .fault .chainPosition

/-- R134: what one position does at a LOAD rising edge is what executing the frame decoded from its shift register does to
it. -/
def Obligations.StandAloneFrameAgreesWithLatch : Prop :=
  ∀ (s : State) (c : Chain) (chip : Chip), s.cfg.wf = true → s.chain = some c → c.chips[s.latchPos]? = some chip →
    match chip.latch with
    | some chip' =>
      exec (decodeFrame chip.sr) s = .next { s with chain := some { c with chips := c.chips.set s.latchPos chip' } }
    | none => exec (decodeFrame chip.sr) s = .refused .undefinedDisplayAddress

/-- Frame of the wire frames: nothing of the block and no chip but the one at `latchPos` changes. -/
def Obligations.WireFramesChangeOneChip : Prop :=
  ∀ (i : Instr) (s t : State), isCommand i = false → exec i s = .next t →
    t = { s with chain := t.chain } ∧ (∀ a, t.pix.read a = s.pix.read a) ∧
      ∃ c c' : Chain, s.chain = some c ∧ t.chain = some c' ∧ c'.clk = c.clk ∧ c'.load = c.load ∧ c'.din = c.din ∧
        c'.chips.length = c.chips.length ∧ ∀ j : Nat, j ≠ s.latchPos → c'.chips[j]? = c.chips[j]?

/-! ### Snake Engine: direction and movement -/

/-- R192 and R194 under the joystick map of R193 (the spec's decision D14): a reading below 400 or above 600 on the axis
that is not locked turns the snake, everything else keeps its direction. -/
def Obligations.DirectionLock : Prop :=
  ∀ (h v : BitVec 10) (s : State), s.cfg.joy = Config.standard.joy →
    (s.dir.axis = .horizontal →
      (v.toNat < 400 → tickDir h v s = .up) ∧ (600 < v.toNat → tickDir h v s = .down) ∧
      (400 ≤ v.toNat → v.toNat ≤ 600 → tickDir h v s = s.dir)) ∧
    (s.dir.axis = .vertical →
      (h.toNat < 400 → tickDir h v s = .left) ∧ (600 < h.toNat → tickDir h v s = .right) ∧
      (400 ≤ h.toNat → h.toNat ≤ 600 → tickDir h v s = s.dir))

/-- R209: no tick reverses the direction, for any readings, any joystick map and any state: the direction stays or turns
to the other axis. -/
def Obligations.TickNeverReverses : Prop :=
  ∀ (h v : BitVec 10) (s t : State), exec (.tick h v) s = .next t →
    t.dir ≠ s.dir.opposite ∧ (t.dir = s.dir ∨ t.dir.axis ≠ s.dir.axis)

/-- R210: the torus closes, for either sign of `UP_DELTA` and `RIGHT_MODULE_STEP` and every `MC`: eight moves Up or Down,
`8*MC` moves Right or Left, and no fewer; eight moves Right are one step of the module. -/
def Obligations.TorusClosure : Prop :=
  ∀ (cfg : Config) (c : Cell), c.valid cfg.mc = true →
    (fun c => move cfg c .up)^[8] c = c ∧ (fun c => move cfg c .down)^[8] c = c ∧
    (fun c => move cfg c .right)^[8 * cfg.mc] c = c ∧ (fun c => move cfg c .left)^[8 * cfg.mc] c = c ∧
    (∀ n, 0 < n → n < 8 * cfg.mc →
      (fun c => move cfg c .right)^[n] c ≠ c ∧ (fun c => move cfg c .left)^[n] c ≠ c) ∧
    (fun c => move cfg c .right)^[8] c = { c with module := stepModule cfg.rightStep cfg.mc c.module }

/-- R195 to R198: what each move does to a valid cell, rows modulo 8 and modules modulo `MC`, for either sign of `UP_DELTA`
and `RIGHT_MODULE_STEP`; and every move is undone by its opposite. -/
def Obligations.MovesFollowTheTorus : Prop :=
  ∀ (cfg : Config) (c : Cell), c.valid cfg.mc = true →
    let up : Int := if cfg.upDelta = .plus then 1 else -1
    let right : Int := if cfg.rightStep = .plus then 1 else -1
    (((move cfg c .up).row.toNat : Int) = (c.row.toNat + up) % 8 ∧
      (move cfg c .up).module = c.module ∧ (move cfg c .up).columnBit = c.columnBit) ∧
    (((move cfg c .down).row.toNat : Int) = (c.row.toNat - up) % 8 ∧
      (move cfg c .down).module = c.module ∧ (move cfg c .down).columnBit = c.columnBit) ∧
    ((move cfg c .right).row = c.row ∧
      if c.columnBit = 0x01#8 then
        ((move cfg c .right).module : Int) = (c.module + right) % cfg.mc ∧ (move cfg c .right).columnBit = 0x80#8
      else (move cfg c .right).module = c.module ∧ (move cfg c .right).columnBit = c.columnBit >>> 1) ∧
    ((move cfg c .left).row = c.row ∧
      if c.columnBit = 0x80#8 then
        ((move cfg c .left).module : Int) = (c.module - right) % cfg.mc ∧ (move cfg c .left).columnBit = 0x01#8
      else (move cfg c .left).module = c.module ∧ (move cfg c .left).columnBit = c.columnBit <<< 1) ∧
    ∀ d : Dir, move cfg (move cfg c d) d.opposite = c

/-- R165, and pix_clear of R166: each is a read, change and write of the cell's bit in its one byte, and changes nothing
else; pix_clear of ZERO changes no byte. -/
def Obligations.PixelPrimitivesChangeOneBit : Prop :=
  ∀ (c : Cell) (s : State), s.pix.wf = true →
    readPix s.cfg.mc (pixSet c s).pix c.row c.module = readPix s.cfg.mc s.pix c.row c.module ||| c.columnBit ∧
    readPix s.cfg.mc (pixClear c s).pix c.row c.module = readPix s.cfg.mc s.pix c.row c.module &&& ~~~c.columnBit ∧
    (∀ a, a ≠ pixIndex s.cfg.mc c.row c.module →
      (pixSet c s).pix.read a = s.pix.read a ∧ (pixClear c s).pix.read a = s.pix.read a) ∧
    (∀ a, (pixClear Cell.zero s).pix.read a = s.pix.read a) ∧
    pixSet c s = { s with pix := (pixSet c s).pix } ∧ pixClear c s = { s with pix := (pixClear c s).pix }

/-! ### Snake Engine: food and NEW_GAME -/

/-- R167: a draw's answer is a free cell; every free cell can be drawn; and there is no answer exactly when no cell is
free. (Whether a draw returns at all while a cell is free is U7, notes/assumptions/3.md.) -/
def Obligations.FoodDrawLaw : Prop :=
  ∀ (mc n : Nat) (X : List Cell),
    (∀ ds d, drawFreeCell mc X ds n = some d → d.cell.valid mc = true ∧ d.cell.toCell ∉ X) ∧
    (∀ g : GridCell, g.valid mc = true → g.toCell ∉ X → ∃ ds d, drawFreeCell mc X ds n = some d ∧ d.cell = g) ∧
    ∀ ds, drawFreeCell mc X ds n = none ↔ ∀ g : GridCell, g.valid mc = true → g.toCell ∈ X

/-- R169: NEW_GAME is format N with OP 0x3. Accepted, in either phase, it sets up a fresh game, with food on some free cell
and exactly the initial cells and the food lit, and changes nothing else: no line, no FAULT, no notice. Faulted, it does
nothing. (R169 says that its draw always has an answer; that a real source returns it is U7, notes/assumptions/3.md.) -/
def Obligations.NewGameStartsAFreshGame : Prop :=
  encode .newGame = .command (0x3#4 ++ 0x0000000#28) ∧
  ∀ s : State, s.cfg.wf = true →
    (s.fault.isSome = true → exec .newGame s = .next s) ∧
    (s.accepting = true →
      ∃ (g : GridCell) (ds : List GridCell) (n : Nat) (p : Memory),
        exec .newGame s = .next
          { s with
            trail := s.cfg.initTrail ++ List.replicate (s.cfg.cap - 3) ⟨0#3, 0, 0x00#8⟩
            pix := p
            length := 3
            stepper := 3
            head := s.cfg.initTrail.getD 2 ⟨0#3, 0, 0x00#8⟩
            dir := s.cfg.initDir
            phase := .running
            food := g
            draws := ds
            drawCount := n } ∧
        g.valid s.cfg.mc = true ∧ g.toCell ∉ s.cfg.initTrail ∧ p.wf = true ∧ (∀ a ∈ p, a.1 < 8 * s.cfg.mc) ∧
        ∀ c : Cell, c.valid s.cfg.mc = true → (lit s.cfg.mc p c = true ↔ c ∈ s.cfg.initTrail ∨ c = g.toCell))

/-! ### Snake Engine: TICK -/

/-- R190 case (e), with R202, R204 to R206 and R212: a tick onto a cell that is neither the food nor a cell of the window
other than its tail moves the snake: the window loses its tail and gains the new head, at its place or, where the append
wrote the last slot, compacted to the start; exactly the new window and the food are lit; nothing else changes. -/
def Obligations.TickMovesTheSnake : Prop :=
  ∀ (h v : BitVec 10) (s : State), LegalState s → s.tickRuns = true →
    tickHead h v s ≠ s.food.toCell → tickHead h v s ∉ s.window.tail →
    ∃ t, exec (.tick h v) s = .next t ∧
      t = { s with
        dir := tickDir h v s
        head := move s.cfg s.head (tickDir h v s)
        trail := t.trail
        pix := t.pix
        stepper := if s.stepper = s.cfg.cap - 1 then s.length else s.stepper + 1 } ∧
      t.window = s.window.tail ++ [t.head] ∧
      (∀ i, i < s.cfg.cap → i < t.stepper - t.length ∨ t.stepper ≤ i → t.trail[i]? = some Cell.zero) ∧
      ∀ c : Cell, c.valid s.cfg.mc = true →
        (lit s.cfg.mc t.pix c = true ↔ c ∈ t.window ∨ c = s.food.toCell)

/-- R190 case (f), with R201, R204 to R206, R212 and R213: a tick onto the food, with room in the trail and a free cell
left, grows the snake by the new head and places new food off the new window; nothing else changes. That the tick
completes whenever a cell is free rests on U7, the spec's assumption that a draw then returns, which errs toward proving
(notes/assumptions/3.md). -/
def Obligations.TickEatsAndGrows : Prop :=
  ∀ (h v : BitVec 10) (s : State), LegalState s → s.tickRuns = true →
    tickHead h v s = s.food.toCell → s.length + 1 < s.cfg.cap →
    (∃ g : GridCell, g.valid s.cfg.mc = true ∧ g.toCell ∉ s.window ++ [tickHead h v s]) →
    ∃ t, exec (.tick h v) s = .next t ∧
      t = { s with
        dir := tickDir h v s
        head := move s.cfg s.head (tickDir h v s)
        trail := t.trail
        pix := t.pix
        length := s.length + 1
        stepper := if s.stepper = s.cfg.cap - 1 then s.length + 1 else s.stepper + 1
        food := t.food
        draws := t.draws
        drawCount := t.drawCount } ∧
      t.window = s.window ++ [t.head] ∧ t.food.valid s.cfg.mc = true ∧ t.food.toCell ∉ t.window ∧
      (∀ i, i < s.cfg.cap → i < t.stepper - t.length ∨ t.stepper ≤ i → t.trail[i]? = some Cell.zero) ∧
      ∀ c : Cell, c.valid s.cfg.mc = true →
        (lit s.cfg.mc t.pix c = true ↔ c ∈ t.window ∨ c = t.food.toCell)

/-- R207 with R203: a tick onto a cell of the window other than its tail sets PHASE and appends one notice, and writes
nothing else. -/
def Obligations.TickCollisionEndsTheGame : Prop :=
  ∀ (h v : BitVec 10) (s : State), LegalState s → s.tickRuns = true → tickHead h v s ∈ s.window.tail →
    exec (.tick h v) s = .next { s with phase := .gameOver, notices := s.notices ++ [.gameOver] }

/-- R208: TICK in GameOver does nothing, in every state; and only NEW_GAME or the reset leaves GameOver. -/
def Obligations.TickInGameOverDoesNothing : Prop :=
  (∀ (h v : BitVec 10) (s : State), s.cfg.wf = true → s.phase = .gameOver → exec (.tick h v) s = .next s) ∧
  (∀ (i : Instr) (s t : State), exec i s = .next t → s.phase = .gameOver → t.phase = .running → i = .newGame) ∧
  ∀ s t : State, step s = .next t → s.phase = .gameOver → t.phase = .running →
    s.resetReq ≠ none ∨ ∃ (w : BitVec 32) (rest : List (BitVec 32)), s.port = w :: rest ∧ decodeCommand w = .newGame

/-- R200 and R233: a tick that eats with `LENGTH + 1 >= CAP` raises TrailOverflow before any write, in every state; and no
other instruction and no other tick raises it. -/
def Obligations.TickOverflowFaultsBeforeAnyWrite : Prop :=
  (∀ (h v : BitVec 10) (s : State), s.tickRuns = true → tickHead h v s = s.food.toCell →
    s.cfg.cap ≤ s.length + 1 → exec (.tick h v) s = .next { s with fault := some .trailOverflow }) ∧
  ∀ (i : Instr) (s t : State), exec i s = .next t → t.fault = some .trailOverflow →
    s.fault = some .trailOverflow ∨
      ∃ h v, i = .tick h v ∧ tickHead h v s = s.food.toCell ∧ s.cfg.cap ≤ s.length + 1

/-- R234: a tick that eats, with room in the trail, when no cell is left for new food never completes: the block is hung,
writes no line, and no later step but the reset leaves that state (notes/assumptions/9.md). -/
def Obligations.TickHangsWithoutAFreeCell : Prop :=
  ∀ (h v : BitVec 10) (s : State), LegalState s → s.tickRuns = true →
    tickHead h v s = s.food.toCell → s.length + 1 < s.cfg.cap →
    (∀ g : GridCell, g.valid s.cfg.mc = true → g.toCell ∈ s.window ++ [tickHead h v s]) →
    ∃ t, exec (.tick h v) s = .next t ∧ t.hung = true ∧ t.fault = none ∧ t.phase = s.phase ∧ t.bus = s.bus ∧
      t.notices = s.notices ∧ (s.resetReq = none → s.latchDue = false → step t = .next t)

/-- R234 and R240: a hung block takes no word from the port, and only the reset leaves the hang. -/
def Obligations.HungBlockAcceptsNothing : Prop :=
  ∀ s t : State, s.hung = true → s.resetReq = none → step s = .next t →
    t.hung = true ∧ t.port = s.port ∧ t = { s with latchDue := false, chain := t.chain }

/-- R234 and R270: in a legal state whose next head is the food, no cell is free exactly when the grown snake fills the
grid. -/
def Obligations.NoFreeCellExactlyAtSaturation : Prop :=
  ∀ (h v : BitVec 10) (s : State), LegalState s → s.hung = false → tickHead h v s = s.food.toCell →
    ((∀ g : GridCell, g.valid s.cfg.mc = true → g.toCell ∈ s.window ++ [tickHead h v s]) ↔
      s.length + 1 = 64 * s.cfg.mc)

/-- R233: with `CAP >= 64*MC + 1` no tick of a legal state overflows the trail. -/
def Obligations.LargeCapacityNeverOverflows : Prop :=
  ∀ (h v : BitVec 10) (s t : State), LegalState s → 64 * s.cfg.mc + 1 ≤ s.cfg.cap → s.fault = none →
    exec (.tick h v) s = .next t → t.fault = none

/-- R211: in a legal state a tick that eats never collides. -/
def Obligations.EatingNeverCollides : Prop :=
  ∀ (h v : BitVec 10) (s : State), LegalState s → s.hung = false → tickHead h v s = s.food.toCell →
    tickCollides h v s = false

/-- R215: a tick that runs in a legal state has exactly one outcome. When it eats: TrailOverflow, or the hang, or growth.
When it does not: GameOver, or a plain move. That the hang is a next state with `hung` set, PHASE and FAULT as they were,
is the model's reading of R234 (notes/assumptions/9.md); that a draw returns whenever a cell is free is U7
(notes/assumptions/3.md). -/
def Obligations.TickOutcomesAreExclusive : Prop :=
  ∀ (h v : BitVec 10) (s : State), LegalState s → s.tickRuns = true →
    ∃ t, exec (.tick h v) s = .next t ∧
      (tickHead h v s = s.food.toCell → t.phase = .running ∧
        (t.fault = some .trailOverflow ∧ t.hung = false ∧ t.length = s.length ∨
          t.fault = none ∧ t.hung = true ∨
          t.fault = none ∧ t.hung = false ∧ t.length = s.length + 1)) ∧
      (tickHead h v s ≠ s.food.toCell → t.fault = none ∧ t.hung = false ∧ t.length = s.length ∧
        (t.phase = .gameOver ∧ t.head = s.head ∨ t.phase = .running ∧ t.head = tickHead h v s))

/-- Frame of TICK: it writes no line and leaves the chain, the configuration, the port, the host's reset request and a
stand-alone frame alone, and when it does not eat also the food and the supply of samples. Every byte of the Pixel Buffer
is unchanged but, when it does not eat, those of the tail and of the new head, and when it eats, those of the new head
(where the eaten food was) and of the new food. What it leaves of the bytes where its draw hangs is notes/assumptions/9.md. -/
def Obligations.TickChangesNoOtherByte : Prop :=
  ∀ (h v : BitVec 10) (s t : State), exec (.tick h v) s = .next t →
    t.cfg = s.cfg ∧ t.clk = s.clk ∧ t.load = s.load ∧ t.din = s.din ∧ t.bus = s.bus ∧ t.chain = s.chain ∧
      t.port = s.port ∧ t.resetReq = s.resetReq ∧ t.latchDue = s.latchDue ∧ t.latchPos = s.latchPos ∧
      (tickHead h v s ≠ s.food.toCell → t.food = s.food ∧ t.draws = s.draws ∧ t.drawCount = s.drawCount ∧ ∀ a,
        a ≠ pixIndex s.cfg.mc s.tail.row s.tail.module →
        a ≠ pixIndex s.cfg.mc (tickHead h v s).row (tickHead h v s).module → t.pix.read a = s.pix.read a) ∧
      (tickHead h v s = s.food.toCell → ∀ a,
        a ≠ pixIndex s.cfg.mc (tickHead h v s).row (tickHead h v s).module →
        a ≠ pixIndex s.cfg.mc t.food.row t.food.module → t.pix.read a = s.pix.read a)

/-- R205: the compaction is the two loops of the rule, run in ascending order on the one array, and STEPPER becomes the
length; HEAD, PIX and FOOD are unchanged (R212). -/
def Obligations.RolloverIsTheLoopOfTheRule : Prop :=
  ∀ s : State, s.trail.length = s.cfg.cap → s.length < s.cfg.cap →
    rollover s =
      { s with
        trail := (List.range s.cfg.cap).foldl
          (fun tr i => tr.set i (if i < s.length then tr.getD (s.cfg.cap - s.length + i) Cell.zero else Cell.zero))
          s.trail
        stepper := s.length }

/-! ### Whole machine -/

/-- R170 with the legal values of R24, R25 and R28 to R30: every step from a legal state leads to a legal state. -/
def Obligations.StepKeepsLegalState : Prop :=
  ∀ s t : State, LegalState s → step s = .next t → LegalState t

/-- The state after reset is legal. -/
def Obligations.ResetStateIsLegal : Prop := LegalState State.reset

/-- The state after power-on is legal, not faulted and not hung in every admitted configuration and for every supply of
samples. -/
def Obligations.PowerOnIsLegal : Prop :=
  ∀ (cfg : Config) (draws : List GridCell), cfg.wf = true →
    LegalState (State.powerOn cfg draws) ∧ (State.powerOn cfg draws).inService = true

/-- R260: the reset, from any state, a hung or faulted one included: FAULT none, the lines at LINE_RESET without an event,
both traces empty, and the engine set exactly as NEW_GAME sets it. It writes nothing to the chain. With no command in
progress, or a hung TICK, the chain is as it was; a command abandoned after its first `n` line writes leaves the chain as
those writes made it. The request is answered; configuration, port and a stand-alone frame stay. (The request as the field
`resetReq`, with the number of writes in it, is the model's own, notes/assumptions/12.md.) -/
def Obligations.ResetProcedure : Prop :=
  (∀ (n : Nat) (s : State), s.cfg.wf = true → s.resetReq = some n → n = 0 ∨ s.hung = true ∨ s.port = [] →
    ∃ t u, step s = .next t ∧ exec .newGame { s with fault := none, hung := false } = .next u ∧
      t = { u with
        clk := s.cfg.lineReset.clk
        load := s.cfg.lineReset.load
        din := s.cfg.lineReset.din
        bus := []
        notices := []
        resetReq := none } ∧
      t.fault = none ∧ t.hung = false ∧ t.chain = s.chain ∧ t.cfg = s.cfg ∧ t.port = s.port ∧
      t.latchDue = s.latchDue ∧ t.latchPos = s.latchPos) ∧
  ∀ (n : Nat) (w : BitVec 32) (rest : List (BitVec 32)) (s r : State), s.cfg.wf = true → s.resetReq = some n →
    0 < n → s.hung = false → s.port = w :: rest → exec (decodeCommand w) { s with port := rest } = .next r →
    ∃ t u es, step s = .next t ∧ exec .newGame { r with fault := none, hung := false } = .next u ∧
      r.bus = s.bus ++ es ∧
      t = { u with
        clk := s.cfg.lineReset.clk
        load := s.cfg.lineReset.load
        din := s.cfg.lineReset.din
        bus := []
        notices := []
        resetReq := none
        chain := watch s.chain (es.take n) } ∧
      t.fault = none ∧ t.hung = false ∧ t.cfg = s.cfg ∧ t.port = rest ∧
      t.latchDue = s.latchDue ∧ t.latchPos = s.latchPos

/-- R261: the values after reset under the defaults of R6, for every capacity and every supply of samples; of the food,
that it is on the grid and off the three initial cells; of the chain, that it is there. The line levels are the spec's
decision D10, the first direction its decision D15. -/
def Obligations.ResetValues : Prop :=
  State.reset = State.powerOn Config.standard [] ∧
  ∀ (cap : Nat) (draws : List GridCell), 4 ≤ cap →
    let s := State.powerOn { Config.standard with cap := cap } draws
    s.clk = false ∧ s.load = false ∧ s.din = false ∧ s.bus = [] ∧ s.fault = none ∧ s.phase = .running ∧
      s.dir = .right ∧ s.head = ⟨4#3, 0, 0x04#8⟩ ∧ s.length = 3 ∧ s.stepper = 3 ∧
      s.trail = ⟨4#3, 0, 0x10#8⟩ :: ⟨0#3, 1, 0x08#8⟩ :: ⟨4#3, 0, 0x04#8⟩ :: List.replicate (cap - 3) ⟨0#3, 0, 0x00#8⟩ ∧
      s.food.valid 4 = true ∧
      s.food.toCell ∉ ([⟨4#3, 0, 0x10#8⟩, ⟨0#3, 1, 0x08#8⟩, ⟨4#3, 0, 0x04#8⟩] : List Cell) ∧
      (∀ c : Cell, c.valid 4 = true → (lit 4 s.pix c = true ↔
        c ∈ ([⟨4#3, 0, 0x10#8⟩, ⟨0#3, 1, 0x08#8⟩, ⟨4#3, 0, 0x04#8⟩] : List Cell) ∨ c = s.food.toCell)) ∧
      s.notices = [] ∧ s.gameOverOut = false ∧ s.faultedOut = false ∧ s.chain.isSome = true

/-- R27 and R237: PHASE becomes GameOver only by a TICK, which then appends one notice; no other instruction touches the
notice trace; and after NEW_GAME the output GAME_OVER is 0. -/
def Obligations.PhaseAndNoticeChanges : Prop :=
  (∀ (i : Instr) (s t : State), exec i s = .next t → s.phase = .running → t.phase = .gameOver →
    (∃ h v, i = .tick h v) ∧ t.notices = s.notices ++ [.gameOver]) ∧
  (∀ (i : Instr) (s t : State), exec i s = .next t → t.notices ≠ s.notices →
    s.phase = .running ∧ t.phase = .gameOver) ∧
  ∀ s t : State, s.accepting = true → exec .newGame s = .next t → t.gameOverOut = false
end

