-- ==== Sys2Proof/Laws/State.lean ====
section
/-!
SUPPORT. One lemma per field per update of the state, so that no proof unfolds an update.
-/

namespace Sys2Proof.Machine

variable (s : State)

@[simp] theorem lineWrite_cfg (l : Line) (b : Level) : (lineWrite l b s).cfg = s.cfg := by cases l <;> rfl
@[simp] theorem lineWrite_bus (l : Line) (b : Level) : (lineWrite l b s).bus = s.bus ++ [⟨l, b⟩] := by cases l <;> rfl
@[simp] theorem lineWrite_phase (l : Line) (b : Level) : (lineWrite l b s).phase = s.phase := by cases l <;> rfl
@[simp] theorem lineWrite_dir (l : Line) (b : Level) : (lineWrite l b s).dir = s.dir := by cases l <;> rfl
@[simp] theorem lineWrite_head (l : Line) (b : Level) : (lineWrite l b s).head = s.head := by cases l <;> rfl
@[simp] theorem lineWrite_food (l : Line) (b : Level) : (lineWrite l b s).food = s.food := by cases l <;> rfl
@[simp] theorem lineWrite_length (l : Line) (b : Level) : (lineWrite l b s).length = s.length := by cases l <;> rfl
@[simp] theorem lineWrite_stepper (l : Line) (b : Level) : (lineWrite l b s).stepper = s.stepper := by cases l <;> rfl
@[simp] theorem lineWrite_trail (l : Line) (b : Level) : (lineWrite l b s).trail = s.trail := by cases l <;> rfl
@[simp] theorem lineWrite_pix (l : Line) (b : Level) : (lineWrite l b s).pix = s.pix := by cases l <;> rfl
@[simp] theorem lineWrite_fault (l : Line) (b : Level) : (lineWrite l b s).fault = s.fault := by cases l <;> rfl
@[simp] theorem lineWrite_notices (l : Line) (b : Level) : (lineWrite l b s).notices = s.notices := by cases l <;> rfl
@[simp] theorem lineWrite_hung (l : Line) (b : Level) : (lineWrite l b s).hung = s.hung := by cases l <;> rfl
@[simp] theorem lineWrite_chain (l : Line) (b : Level) : (lineWrite l b s).chain = s.chain.bind (·.see ⟨l, b⟩) := by cases l <;> rfl
@[simp] theorem lineWrite_port (l : Line) (b : Level) : (lineWrite l b s).port = s.port := by cases l <;> rfl
@[simp] theorem lineWrite_resetReq (l : Line) (b : Level) : (lineWrite l b s).resetReq = s.resetReq := by cases l <;> rfl
@[simp] theorem lineWrite_draws (l : Line) (b : Level) : (lineWrite l b s).draws = s.draws := by cases l <;> rfl
@[simp] theorem lineWrite_drawCount (l : Line) (b : Level) : (lineWrite l b s).drawCount = s.drawCount := by cases l <;> rfl
@[simp] theorem lineWrite_latchDue (l : Line) (b : Level) : (lineWrite l b s).latchDue = s.latchDue := by cases l <;> rfl
@[simp] theorem lineWrite_latchPos (l : Line) (b : Level) : (lineWrite l b s).latchPos = s.latchPos := by cases l <;> rfl

@[simp] theorem pixSet_cfg (c : Cell) : (pixSet c s).cfg = s.cfg := rfl
@[simp] theorem pixSet_clk (c : Cell) : (pixSet c s).clk = s.clk := rfl
@[simp] theorem pixSet_load (c : Cell) : (pixSet c s).load = s.load := rfl
@[simp] theorem pixSet_din (c : Cell) : (pixSet c s).din = s.din := rfl
@[simp] theorem pixSet_bus (c : Cell) : (pixSet c s).bus = s.bus := rfl
@[simp] theorem pixSet_phase (c : Cell) : (pixSet c s).phase = s.phase := rfl
@[simp] theorem pixSet_dir (c : Cell) : (pixSet c s).dir = s.dir := rfl
@[simp] theorem pixSet_head (c : Cell) : (pixSet c s).head = s.head := rfl
@[simp] theorem pixSet_food (c : Cell) : (pixSet c s).food = s.food := rfl
@[simp] theorem pixSet_length (c : Cell) : (pixSet c s).length = s.length := rfl
@[simp] theorem pixSet_stepper (c : Cell) : (pixSet c s).stepper = s.stepper := rfl
@[simp] theorem pixSet_trail (c : Cell) : (pixSet c s).trail = s.trail := rfl
@[simp] theorem pixSet_pix (c : Cell) : (pixSet c s).pix = pixSetIn s.cfg.mc c s.pix := rfl
@[simp] theorem pixSet_fault (c : Cell) : (pixSet c s).fault = s.fault := rfl
@[simp] theorem pixSet_notices (c : Cell) : (pixSet c s).notices = s.notices := rfl
@[simp] theorem pixSet_hung (c : Cell) : (pixSet c s).hung = s.hung := rfl
@[simp] theorem pixSet_chain (c : Cell) : (pixSet c s).chain = s.chain := rfl
@[simp] theorem pixSet_port (c : Cell) : (pixSet c s).port = s.port := rfl
@[simp] theorem pixSet_resetReq (c : Cell) : (pixSet c s).resetReq = s.resetReq := rfl
@[simp] theorem pixSet_draws (c : Cell) : (pixSet c s).draws = s.draws := rfl
@[simp] theorem pixSet_drawCount (c : Cell) : (pixSet c s).drawCount = s.drawCount := rfl
@[simp] theorem pixSet_latchDue (c : Cell) : (pixSet c s).latchDue = s.latchDue := rfl
@[simp] theorem pixSet_latchPos (c : Cell) : (pixSet c s).latchPos = s.latchPos := rfl

@[simp] theorem pixClear_cfg (c : Cell) : (pixClear c s).cfg = s.cfg := rfl
@[simp] theorem pixClear_clk (c : Cell) : (pixClear c s).clk = s.clk := rfl
@[simp] theorem pixClear_load (c : Cell) : (pixClear c s).load = s.load := rfl
@[simp] theorem pixClear_din (c : Cell) : (pixClear c s).din = s.din := rfl
@[simp] theorem pixClear_bus (c : Cell) : (pixClear c s).bus = s.bus := rfl
@[simp] theorem pixClear_phase (c : Cell) : (pixClear c s).phase = s.phase := rfl
@[simp] theorem pixClear_dir (c : Cell) : (pixClear c s).dir = s.dir := rfl
@[simp] theorem pixClear_head (c : Cell) : (pixClear c s).head = s.head := rfl
@[simp] theorem pixClear_food (c : Cell) : (pixClear c s).food = s.food := rfl
@[simp] theorem pixClear_length (c : Cell) : (pixClear c s).length = s.length := rfl
@[simp] theorem pixClear_stepper (c : Cell) : (pixClear c s).stepper = s.stepper := rfl
@[simp] theorem pixClear_trail (c : Cell) : (pixClear c s).trail = s.trail := rfl
@[simp] theorem pixClear_pix (c : Cell) : (pixClear c s).pix = pixClearIn s.cfg.mc c s.pix := rfl
@[simp] theorem pixClear_fault (c : Cell) : (pixClear c s).fault = s.fault := rfl
@[simp] theorem pixClear_notices (c : Cell) : (pixClear c s).notices = s.notices := rfl
@[simp] theorem pixClear_hung (c : Cell) : (pixClear c s).hung = s.hung := rfl
@[simp] theorem pixClear_chain (c : Cell) : (pixClear c s).chain = s.chain := rfl
@[simp] theorem pixClear_port (c : Cell) : (pixClear c s).port = s.port := rfl
@[simp] theorem pixClear_resetReq (c : Cell) : (pixClear c s).resetReq = s.resetReq := rfl
@[simp] theorem pixClear_draws (c : Cell) : (pixClear c s).draws = s.draws := rfl
@[simp] theorem pixClear_drawCount (c : Cell) : (pixClear c s).drawCount = s.drawCount := rfl
@[simp] theorem pixClear_latchDue (c : Cell) : (pixClear c s).latchDue = s.latchDue := rfl
@[simp] theorem pixClear_latchPos (c : Cell) : (pixClear c s).latchPos = s.latchPos := rfl

@[simp] theorem raiseFault_cfg (cause : FaultCause) : (raiseFault cause s).cfg = s.cfg := rfl
@[simp] theorem raiseFault_clk (cause : FaultCause) : (raiseFault cause s).clk = s.clk := rfl
@[simp] theorem raiseFault_load (cause : FaultCause) : (raiseFault cause s).load = s.load := rfl
@[simp] theorem raiseFault_din (cause : FaultCause) : (raiseFault cause s).din = s.din := rfl
@[simp] theorem raiseFault_bus (cause : FaultCause) : (raiseFault cause s).bus = s.bus := rfl
@[simp] theorem raiseFault_phase (cause : FaultCause) : (raiseFault cause s).phase = s.phase := rfl
@[simp] theorem raiseFault_dir (cause : FaultCause) : (raiseFault cause s).dir = s.dir := rfl
@[simp] theorem raiseFault_head (cause : FaultCause) : (raiseFault cause s).head = s.head := rfl
@[simp] theorem raiseFault_food (cause : FaultCause) : (raiseFault cause s).food = s.food := rfl
@[simp] theorem raiseFault_length (cause : FaultCause) : (raiseFault cause s).length = s.length := rfl
@[simp] theorem raiseFault_stepper (cause : FaultCause) : (raiseFault cause s).stepper = s.stepper := rfl
@[simp] theorem raiseFault_trail (cause : FaultCause) : (raiseFault cause s).trail = s.trail := rfl
@[simp] theorem raiseFault_pix (cause : FaultCause) : (raiseFault cause s).pix = s.pix := rfl
@[simp] theorem raiseFault_fault (cause : FaultCause) : (raiseFault cause s).fault = some cause := rfl
@[simp] theorem raiseFault_notices (cause : FaultCause) : (raiseFault cause s).notices = s.notices := rfl
@[simp] theorem raiseFault_hung (cause : FaultCause) : (raiseFault cause s).hung = s.hung := rfl
@[simp] theorem raiseFault_chain (cause : FaultCause) : (raiseFault cause s).chain = s.chain := rfl
@[simp] theorem raiseFault_port (cause : FaultCause) : (raiseFault cause s).port = s.port := rfl
@[simp] theorem raiseFault_resetReq (cause : FaultCause) : (raiseFault cause s).resetReq = s.resetReq := rfl
@[simp] theorem raiseFault_draws (cause : FaultCause) : (raiseFault cause s).draws = s.draws := rfl
@[simp] theorem raiseFault_drawCount (cause : FaultCause) : (raiseFault cause s).drawCount = s.drawCount := rfl
@[simp] theorem raiseFault_latchDue (cause : FaultCause) : (raiseFault cause s).latchDue = s.latchDue := rfl
@[simp] theorem raiseFault_latchPos (cause : FaultCause) : (raiseFault cause s).latchPos = s.latchPos := rfl

@[simp] theorem notice_cfg (e : NoticeEvent) : (notice e s).cfg = s.cfg := rfl
@[simp] theorem notice_clk (e : NoticeEvent) : (notice e s).clk = s.clk := rfl
@[simp] theorem notice_load (e : NoticeEvent) : (notice e s).load = s.load := rfl
@[simp] theorem notice_din (e : NoticeEvent) : (notice e s).din = s.din := rfl
@[simp] theorem notice_bus (e : NoticeEvent) : (notice e s).bus = s.bus := rfl
@[simp] theorem notice_phase (e : NoticeEvent) : (notice e s).phase = s.phase := rfl
@[simp] theorem notice_dir (e : NoticeEvent) : (notice e s).dir = s.dir := rfl
@[simp] theorem notice_head (e : NoticeEvent) : (notice e s).head = s.head := rfl
@[simp] theorem notice_food (e : NoticeEvent) : (notice e s).food = s.food := rfl
@[simp] theorem notice_length (e : NoticeEvent) : (notice e s).length = s.length := rfl
@[simp] theorem notice_stepper (e : NoticeEvent) : (notice e s).stepper = s.stepper := rfl
@[simp] theorem notice_trail (e : NoticeEvent) : (notice e s).trail = s.trail := rfl
@[simp] theorem notice_pix (e : NoticeEvent) : (notice e s).pix = s.pix := rfl
@[simp] theorem notice_fault (e : NoticeEvent) : (notice e s).fault = s.fault := rfl
@[simp] theorem notice_notices (e : NoticeEvent) : (notice e s).notices = s.notices ++ [e] := rfl
@[simp] theorem notice_hung (e : NoticeEvent) : (notice e s).hung = s.hung := rfl
@[simp] theorem notice_chain (e : NoticeEvent) : (notice e s).chain = s.chain := rfl
@[simp] theorem notice_port (e : NoticeEvent) : (notice e s).port = s.port := rfl
@[simp] theorem notice_resetReq (e : NoticeEvent) : (notice e s).resetReq = s.resetReq := rfl
@[simp] theorem notice_draws (e : NoticeEvent) : (notice e s).draws = s.draws := rfl
@[simp] theorem notice_drawCount (e : NoticeEvent) : (notice e s).drawCount = s.drawCount := rfl
@[simp] theorem notice_latchDue (e : NoticeEvent) : (notice e s).latchDue = s.latchDue := rfl
@[simp] theorem notice_latchPos (e : NoticeEvent) : (notice e s).latchPos = s.latchPos := rfl

@[simp] theorem hang_cfg : (hang s).cfg = s.cfg := rfl
@[simp] theorem hang_clk : (hang s).clk = s.clk := rfl
@[simp] theorem hang_load : (hang s).load = s.load := rfl
@[simp] theorem hang_din : (hang s).din = s.din := rfl
@[simp] theorem hang_bus : (hang s).bus = s.bus := rfl
@[simp] theorem hang_phase : (hang s).phase = s.phase := rfl
@[simp] theorem hang_dir : (hang s).dir = s.dir := rfl
@[simp] theorem hang_head : (hang s).head = s.head := rfl
@[simp] theorem hang_food : (hang s).food = s.food := rfl
@[simp] theorem hang_length : (hang s).length = s.length := rfl
@[simp] theorem hang_stepper : (hang s).stepper = s.stepper := rfl
@[simp] theorem hang_trail : (hang s).trail = s.trail := rfl
@[simp] theorem hang_pix : (hang s).pix = s.pix := rfl
@[simp] theorem hang_fault : (hang s).fault = s.fault := rfl
@[simp] theorem hang_notices : (hang s).notices = s.notices := rfl
@[simp] theorem hang_hung : (hang s).hung = true := rfl
@[simp] theorem hang_chain : (hang s).chain = s.chain := rfl
@[simp] theorem hang_port : (hang s).port = s.port := rfl
@[simp] theorem hang_resetReq : (hang s).resetReq = s.resetReq := rfl
@[simp] theorem hang_draws : (hang s).draws = s.draws := rfl
@[simp] theorem hang_drawCount : (hang s).drawCount = s.drawCount := rfl
@[simp] theorem hang_latchDue : (hang s).latchDue = s.latchDue := rfl
@[simp] theorem hang_latchPos : (hang s).latchPos = s.latchPos := rfl

@[simp] theorem placeFood_cfg (d : Draw) : (placeFood d s).cfg = s.cfg := rfl
@[simp] theorem placeFood_clk (d : Draw) : (placeFood d s).clk = s.clk := rfl
@[simp] theorem placeFood_load (d : Draw) : (placeFood d s).load = s.load := rfl
@[simp] theorem placeFood_din (d : Draw) : (placeFood d s).din = s.din := rfl
@[simp] theorem placeFood_bus (d : Draw) : (placeFood d s).bus = s.bus := rfl
@[simp] theorem placeFood_phase (d : Draw) : (placeFood d s).phase = s.phase := rfl
@[simp] theorem placeFood_dir (d : Draw) : (placeFood d s).dir = s.dir := rfl
@[simp] theorem placeFood_head (d : Draw) : (placeFood d s).head = s.head := rfl
@[simp] theorem placeFood_food (d : Draw) : (placeFood d s).food = d.cell := rfl
@[simp] theorem placeFood_length (d : Draw) : (placeFood d s).length = s.length := rfl
@[simp] theorem placeFood_stepper (d : Draw) : (placeFood d s).stepper = s.stepper := rfl
@[simp] theorem placeFood_trail (d : Draw) : (placeFood d s).trail = s.trail := rfl
@[simp] theorem placeFood_pix (d : Draw) : (placeFood d s).pix = pixSetIn s.cfg.mc d.cell.toCell s.pix := rfl
@[simp] theorem placeFood_fault (d : Draw) : (placeFood d s).fault = s.fault := rfl
@[simp] theorem placeFood_notices (d : Draw) : (placeFood d s).notices = s.notices := rfl
@[simp] theorem placeFood_hung (d : Draw) : (placeFood d s).hung = s.hung := rfl
@[simp] theorem placeFood_chain (d : Draw) : (placeFood d s).chain = s.chain := rfl
@[simp] theorem placeFood_port (d : Draw) : (placeFood d s).port = s.port := rfl
@[simp] theorem placeFood_resetReq (d : Draw) : (placeFood d s).resetReq = s.resetReq := rfl
@[simp] theorem placeFood_draws (d : Draw) : (placeFood d s).draws = d.draws := rfl
@[simp] theorem placeFood_drawCount (d : Draw) : (placeFood d s).drawCount = d.drawCount := rfl
@[simp] theorem placeFood_latchDue (d : Draw) : (placeFood d s).latchDue = s.latchDue := rfl
@[simp] theorem placeFood_latchPos (d : Draw) : (placeFood d s).latchPos = s.latchPos := rfl

@[simp] theorem freshGame_cfg : (freshGame s).cfg = s.cfg := rfl
@[simp] theorem freshGame_clk : (freshGame s).clk = s.clk := rfl
@[simp] theorem freshGame_load : (freshGame s).load = s.load := rfl
@[simp] theorem freshGame_din : (freshGame s).din = s.din := rfl
@[simp] theorem freshGame_bus : (freshGame s).bus = s.bus := rfl
@[simp] theorem freshGame_phase : (freshGame s).phase = .running := rfl
@[simp] theorem freshGame_dir : (freshGame s).dir = s.cfg.initDir := rfl
@[simp] theorem freshGame_head : (freshGame s).head = initialHead s.cfg := rfl
@[simp] theorem freshGame_food : (freshGame s).food = s.food := rfl
@[simp] theorem freshGame_length : (freshGame s).length = 3 := rfl
@[simp] theorem freshGame_stepper : (freshGame s).stepper = 3 := rfl
@[simp] theorem freshGame_trail : (freshGame s).trail = initialTrail s.cfg := rfl
@[simp] theorem freshGame_pix : (freshGame s).pix = initialPix s.cfg := rfl
@[simp] theorem freshGame_fault : (freshGame s).fault = s.fault := rfl
@[simp] theorem freshGame_notices : (freshGame s).notices = s.notices := rfl
@[simp] theorem freshGame_hung : (freshGame s).hung = s.hung := rfl
@[simp] theorem freshGame_chain : (freshGame s).chain = s.chain := rfl
@[simp] theorem freshGame_port : (freshGame s).port = s.port := rfl
@[simp] theorem freshGame_resetReq : (freshGame s).resetReq = s.resetReq := rfl
@[simp] theorem freshGame_draws : (freshGame s).draws = s.draws := rfl
@[simp] theorem freshGame_drawCount : (freshGame s).drawCount = s.drawCount := rfl
@[simp] theorem freshGame_latchDue : (freshGame s).latchDue = s.latchDue := rfl
@[simp] theorem freshGame_latchPos : (freshGame s).latchPos = s.latchPos := rfl

@[simp] theorem enterGameOver_cfg : (enterGameOver s).cfg = s.cfg := rfl
@[simp] theorem enterGameOver_clk : (enterGameOver s).clk = s.clk := rfl
@[simp] theorem enterGameOver_load : (enterGameOver s).load = s.load := rfl
@[simp] theorem enterGameOver_din : (enterGameOver s).din = s.din := rfl
@[simp] theorem enterGameOver_bus : (enterGameOver s).bus = s.bus := rfl
@[simp] theorem enterGameOver_phase : (enterGameOver s).phase = .gameOver := rfl
@[simp] theorem enterGameOver_dir : (enterGameOver s).dir = s.dir := rfl
@[simp] theorem enterGameOver_head : (enterGameOver s).head = s.head := rfl
@[simp] theorem enterGameOver_food : (enterGameOver s).food = s.food := rfl
@[simp] theorem enterGameOver_length : (enterGameOver s).length = s.length := rfl
@[simp] theorem enterGameOver_stepper : (enterGameOver s).stepper = s.stepper := rfl
@[simp] theorem enterGameOver_trail : (enterGameOver s).trail = s.trail := rfl
@[simp] theorem enterGameOver_pix : (enterGameOver s).pix = s.pix := rfl
@[simp] theorem enterGameOver_fault : (enterGameOver s).fault = s.fault := rfl
@[simp] theorem enterGameOver_notices : (enterGameOver s).notices = s.notices ++ [.gameOver] := rfl
@[simp] theorem enterGameOver_hung : (enterGameOver s).hung = s.hung := rfl
@[simp] theorem enterGameOver_chain : (enterGameOver s).chain = s.chain := rfl
@[simp] theorem enterGameOver_port : (enterGameOver s).port = s.port := rfl
@[simp] theorem enterGameOver_resetReq : (enterGameOver s).resetReq = s.resetReq := rfl
@[simp] theorem enterGameOver_draws : (enterGameOver s).draws = s.draws := rfl
@[simp] theorem enterGameOver_drawCount : (enterGameOver s).drawCount = s.drawCount := rfl
@[simp] theorem enterGameOver_latchDue : (enterGameOver s).latchDue = s.latchDue := rfl
@[simp] theorem enterGameOver_latchPos : (enterGameOver s).latchPos = s.latchPos := rfl

@[simp] theorem rollover_cfg : (rollover s).cfg = s.cfg := rfl
@[simp] theorem rollover_clk : (rollover s).clk = s.clk := rfl
@[simp] theorem rollover_load : (rollover s).load = s.load := rfl
@[simp] theorem rollover_din : (rollover s).din = s.din := rfl
@[simp] theorem rollover_bus : (rollover s).bus = s.bus := rfl
@[simp] theorem rollover_phase : (rollover s).phase = s.phase := rfl
@[simp] theorem rollover_dir : (rollover s).dir = s.dir := rfl
@[simp] theorem rollover_head : (rollover s).head = s.head := rfl
@[simp] theorem rollover_food : (rollover s).food = s.food := rfl
@[simp] theorem rollover_length : (rollover s).length = s.length := rfl
@[simp] theorem rollover_stepper : (rollover s).stepper = s.length := rfl
@[simp] theorem rollover_trail : (rollover s).trail = trailSlice s.trail (s.cfg.cap - s.length) s.cfg.cap ++ List.replicate (s.cfg.cap - s.length) Cell.zero := rfl
@[simp] theorem rollover_pix : (rollover s).pix = s.pix := rfl
@[simp] theorem rollover_fault : (rollover s).fault = s.fault := rfl
@[simp] theorem rollover_notices : (rollover s).notices = s.notices := rfl
@[simp] theorem rollover_hung : (rollover s).hung = s.hung := rfl
@[simp] theorem rollover_chain : (rollover s).chain = s.chain := rfl
@[simp] theorem rollover_port : (rollover s).port = s.port := rfl
@[simp] theorem rollover_resetReq : (rollover s).resetReq = s.resetReq := rfl
@[simp] theorem rollover_draws : (rollover s).draws = s.draws := rfl
@[simp] theorem rollover_drawCount : (rollover s).drawCount = s.drawCount := rfl
@[simp] theorem rollover_latchDue : (rollover s).latchDue = s.latchDue := rfl
@[simp] theorem rollover_latchPos : (rollover s).latchPos = s.latchPos := rfl

@[simp] theorem advanceStepper_cfg : (advanceStepper s).cfg = s.cfg := by unfold advanceStepper; split <;> rfl
@[simp] theorem advanceStepper_clk : (advanceStepper s).clk = s.clk := by unfold advanceStepper; split <;> rfl
@[simp] theorem advanceStepper_load : (advanceStepper s).load = s.load := by unfold advanceStepper; split <;> rfl
@[simp] theorem advanceStepper_din : (advanceStepper s).din = s.din := by unfold advanceStepper; split <;> rfl
@[simp] theorem advanceStepper_bus : (advanceStepper s).bus = s.bus := by unfold advanceStepper; split <;> rfl
@[simp] theorem advanceStepper_phase : (advanceStepper s).phase = s.phase := by unfold advanceStepper; split <;> rfl
@[simp] theorem advanceStepper_dir : (advanceStepper s).dir = s.dir := by unfold advanceStepper; split <;> rfl
@[simp] theorem advanceStepper_head : (advanceStepper s).head = s.head := by unfold advanceStepper; split <;> rfl
@[simp] theorem advanceStepper_food : (advanceStepper s).food = s.food := by unfold advanceStepper; split <;> rfl
@[simp] theorem advanceStepper_length : (advanceStepper s).length = s.length := by unfold advanceStepper; split <;> rfl
@[simp] theorem advanceStepper_pix : (advanceStepper s).pix = s.pix := by unfold advanceStepper; split <;> rfl
@[simp] theorem advanceStepper_fault : (advanceStepper s).fault = s.fault := by unfold advanceStepper; split <;> rfl
@[simp] theorem advanceStepper_notices : (advanceStepper s).notices = s.notices := by unfold advanceStepper; split <;> rfl
@[simp] theorem advanceStepper_hung : (advanceStepper s).hung = s.hung := by unfold advanceStepper; split <;> rfl
@[simp] theorem advanceStepper_chain : (advanceStepper s).chain = s.chain := by unfold advanceStepper; split <;> rfl
@[simp] theorem advanceStepper_port : (advanceStepper s).port = s.port := by unfold advanceStepper; split <;> rfl
@[simp] theorem advanceStepper_resetReq : (advanceStepper s).resetReq = s.resetReq := by unfold advanceStepper; split <;> rfl
@[simp] theorem advanceStepper_draws : (advanceStepper s).draws = s.draws := by unfold advanceStepper; split <;> rfl
@[simp] theorem advanceStepper_drawCount : (advanceStepper s).drawCount = s.drawCount := by unfold advanceStepper; split <;> rfl
@[simp] theorem advanceStepper_latchDue : (advanceStepper s).latchDue = s.latchDue := by unfold advanceStepper; split <;> rfl
@[simp] theorem advanceStepper_latchPos : (advanceStepper s).latchPos = s.latchPos := by unfold advanceStepper; split <;> rfl

@[simp] theorem appendHead_cfg (c : Cell) : (appendHead c s).cfg = s.cfg := by simp [appendHead]
@[simp] theorem appendHead_clk (c : Cell) : (appendHead c s).clk = s.clk := by simp [appendHead]
@[simp] theorem appendHead_load (c : Cell) : (appendHead c s).load = s.load := by simp [appendHead]
@[simp] theorem appendHead_din (c : Cell) : (appendHead c s).din = s.din := by simp [appendHead]
@[simp] theorem appendHead_bus (c : Cell) : (appendHead c s).bus = s.bus := by simp [appendHead]
@[simp] theorem appendHead_phase (c : Cell) : (appendHead c s).phase = s.phase := by simp [appendHead]
@[simp] theorem appendHead_dir (c : Cell) : (appendHead c s).dir = s.dir := by simp [appendHead]
@[simp] theorem appendHead_head (c : Cell) : (appendHead c s).head = s.head := by simp [appendHead]
@[simp] theorem appendHead_food (c : Cell) : (appendHead c s).food = s.food := by simp [appendHead]
@[simp] theorem appendHead_length (c : Cell) : (appendHead c s).length = s.length := by simp [appendHead]
@[simp] theorem appendHead_pix (c : Cell) : (appendHead c s).pix = pixSetIn s.cfg.mc c s.pix := by simp [appendHead]
@[simp] theorem appendHead_fault (c : Cell) : (appendHead c s).fault = s.fault := by simp [appendHead]
@[simp] theorem appendHead_notices (c : Cell) : (appendHead c s).notices = s.notices := by simp [appendHead]
@[simp] theorem appendHead_hung (c : Cell) : (appendHead c s).hung = s.hung := by simp [appendHead]
@[simp] theorem appendHead_chain (c : Cell) : (appendHead c s).chain = s.chain := by simp [appendHead]
@[simp] theorem appendHead_port (c : Cell) : (appendHead c s).port = s.port := by simp [appendHead]
@[simp] theorem appendHead_resetReq (c : Cell) : (appendHead c s).resetReq = s.resetReq := by simp [appendHead]
@[simp] theorem appendHead_draws (c : Cell) : (appendHead c s).draws = s.draws := by simp [appendHead]
@[simp] theorem appendHead_drawCount (c : Cell) : (appendHead c s).drawCount = s.drawCount := by simp [appendHead]
@[simp] theorem appendHead_latchDue (c : Cell) : (appendHead c s).latchDue = s.latchDue := by simp [appendHead]
@[simp] theorem appendHead_latchPos (c : Cell) : (appendHead c s).latchPos = s.latchPos := by simp [appendHead]

@[simp] theorem vacateTail_cfg : (vacateTail s).cfg = s.cfg := rfl
@[simp] theorem vacateTail_clk : (vacateTail s).clk = s.clk := rfl
@[simp] theorem vacateTail_load : (vacateTail s).load = s.load := rfl
@[simp] theorem vacateTail_din : (vacateTail s).din = s.din := rfl
@[simp] theorem vacateTail_bus : (vacateTail s).bus = s.bus := rfl
@[simp] theorem vacateTail_phase : (vacateTail s).phase = s.phase := rfl
@[simp] theorem vacateTail_dir : (vacateTail s).dir = s.dir := rfl
@[simp] theorem vacateTail_head : (vacateTail s).head = s.head := rfl
@[simp] theorem vacateTail_food : (vacateTail s).food = s.food := rfl
@[simp] theorem vacateTail_length : (vacateTail s).length = s.length := rfl
@[simp] theorem vacateTail_stepper : (vacateTail s).stepper = s.stepper := rfl
@[simp] theorem vacateTail_trail : (vacateTail s).trail = s.trail.set (s.stepper - s.length) Cell.zero := rfl
@[simp] theorem vacateTail_pix : (vacateTail s).pix = pixClearIn s.cfg.mc s.tail s.pix := rfl
@[simp] theorem vacateTail_fault : (vacateTail s).fault = s.fault := rfl
@[simp] theorem vacateTail_notices : (vacateTail s).notices = s.notices := rfl
@[simp] theorem vacateTail_hung : (vacateTail s).hung = s.hung := rfl
@[simp] theorem vacateTail_chain : (vacateTail s).chain = s.chain := rfl
@[simp] theorem vacateTail_port : (vacateTail s).port = s.port := rfl
@[simp] theorem vacateTail_resetReq : (vacateTail s).resetReq = s.resetReq := rfl
@[simp] theorem vacateTail_draws : (vacateTail s).draws = s.draws := rfl
@[simp] theorem vacateTail_drawCount : (vacateTail s).drawCount = s.drawCount := rfl
@[simp] theorem vacateTail_latchDue : (vacateTail s).latchDue = s.latchDue := rfl
@[simp] theorem vacateTail_latchPos : (vacateTail s).latchPos = s.latchPos := rfl

@[simp] theorem eatFood_cfg : (eatFood s).cfg = s.cfg := rfl
@[simp] theorem eatFood_clk : (eatFood s).clk = s.clk := rfl
@[simp] theorem eatFood_load : (eatFood s).load = s.load := rfl
@[simp] theorem eatFood_din : (eatFood s).din = s.din := rfl
@[simp] theorem eatFood_bus : (eatFood s).bus = s.bus := rfl
@[simp] theorem eatFood_phase : (eatFood s).phase = s.phase := rfl
@[simp] theorem eatFood_dir : (eatFood s).dir = s.dir := rfl
@[simp] theorem eatFood_head : (eatFood s).head = s.head := rfl
@[simp] theorem eatFood_food : (eatFood s).food = s.food := rfl
@[simp] theorem eatFood_length : (eatFood s).length = s.length + 1 := rfl
@[simp] theorem eatFood_stepper : (eatFood s).stepper = s.stepper := rfl
@[simp] theorem eatFood_trail : (eatFood s).trail = s.trail := rfl
@[simp] theorem eatFood_pix : (eatFood s).pix = pixClearIn s.cfg.mc s.food.toCell s.pix := rfl
@[simp] theorem eatFood_fault : (eatFood s).fault = s.fault := rfl
@[simp] theorem eatFood_notices : (eatFood s).notices = s.notices := rfl
@[simp] theorem eatFood_hung : (eatFood s).hung = s.hung := rfl
@[simp] theorem eatFood_chain : (eatFood s).chain = s.chain := rfl
@[simp] theorem eatFood_port : (eatFood s).port = s.port := rfl
@[simp] theorem eatFood_resetReq : (eatFood s).resetReq = s.resetReq := rfl
@[simp] theorem eatFood_draws : (eatFood s).draws = s.draws := rfl
@[simp] theorem eatFood_drawCount : (eatFood s).drawCount = s.drawCount := rfl
@[simp] theorem eatFood_latchDue : (eatFood s).latchDue = s.latchDue := rfl
@[simp] theorem eatFood_latchPos : (eatFood s).latchPos = s.latchPos := rfl

@[simp] theorem takeFrame_cfg : (takeFrame s).cfg = s.cfg := rfl
@[simp] theorem takeFrame_clk : (takeFrame s).clk = s.clk := rfl
@[simp] theorem takeFrame_load : (takeFrame s).load = s.load := rfl
@[simp] theorem takeFrame_din : (takeFrame s).din = s.din := rfl
@[simp] theorem takeFrame_bus : (takeFrame s).bus = s.bus := rfl
@[simp] theorem takeFrame_phase : (takeFrame s).phase = s.phase := rfl
@[simp] theorem takeFrame_dir : (takeFrame s).dir = s.dir := rfl
@[simp] theorem takeFrame_head : (takeFrame s).head = s.head := rfl
@[simp] theorem takeFrame_food : (takeFrame s).food = s.food := rfl
@[simp] theorem takeFrame_length : (takeFrame s).length = s.length := rfl
@[simp] theorem takeFrame_stepper : (takeFrame s).stepper = s.stepper := rfl
@[simp] theorem takeFrame_trail : (takeFrame s).trail = s.trail := rfl
@[simp] theorem takeFrame_pix : (takeFrame s).pix = s.pix := rfl
@[simp] theorem takeFrame_fault : (takeFrame s).fault = s.fault := rfl
@[simp] theorem takeFrame_notices : (takeFrame s).notices = s.notices := rfl
@[simp] theorem takeFrame_hung : (takeFrame s).hung = s.hung := rfl
@[simp] theorem takeFrame_chain : (takeFrame s).chain = s.chain := rfl
@[simp] theorem takeFrame_port : (takeFrame s).port = s.port := rfl
@[simp] theorem takeFrame_resetReq : (takeFrame s).resetReq = s.resetReq := rfl
@[simp] theorem takeFrame_draws : (takeFrame s).draws = s.draws := rfl
@[simp] theorem takeFrame_drawCount : (takeFrame s).drawCount = s.drawCount := rfl
@[simp] theorem takeFrame_latchDue : (takeFrame s).latchDue = false := rfl
@[simp] theorem takeFrame_latchPos : (takeFrame s).latchPos = s.latchPos := rfl

@[simp] theorem takeCommand_cfg : (takeCommand s).cfg = s.cfg := rfl
@[simp] theorem takeCommand_clk : (takeCommand s).clk = s.clk := rfl
@[simp] theorem takeCommand_load : (takeCommand s).load = s.load := rfl
@[simp] theorem takeCommand_din : (takeCommand s).din = s.din := rfl
@[simp] theorem takeCommand_bus : (takeCommand s).bus = s.bus := rfl
@[simp] theorem takeCommand_phase : (takeCommand s).phase = s.phase := rfl
@[simp] theorem takeCommand_dir : (takeCommand s).dir = s.dir := rfl
@[simp] theorem takeCommand_head : (takeCommand s).head = s.head := rfl
@[simp] theorem takeCommand_food : (takeCommand s).food = s.food := rfl
@[simp] theorem takeCommand_length : (takeCommand s).length = s.length := rfl
@[simp] theorem takeCommand_stepper : (takeCommand s).stepper = s.stepper := rfl
@[simp] theorem takeCommand_trail : (takeCommand s).trail = s.trail := rfl
@[simp] theorem takeCommand_pix : (takeCommand s).pix = s.pix := rfl
@[simp] theorem takeCommand_fault : (takeCommand s).fault = s.fault := rfl
@[simp] theorem takeCommand_notices : (takeCommand s).notices = s.notices := rfl
@[simp] theorem takeCommand_hung : (takeCommand s).hung = s.hung := rfl
@[simp] theorem takeCommand_chain : (takeCommand s).chain = s.chain := rfl
@[simp] theorem takeCommand_port : (takeCommand s).port = s.port.tail := rfl
@[simp] theorem takeCommand_resetReq : (takeCommand s).resetReq = s.resetReq := rfl
@[simp] theorem takeCommand_draws : (takeCommand s).draws = s.draws := rfl
@[simp] theorem takeCommand_drawCount : (takeCommand s).drawCount = s.drawCount := rfl
@[simp] theorem takeCommand_latchDue : (takeCommand s).latchDue = s.latchDue := rfl
@[simp] theorem takeCommand_latchPos : (takeCommand s).latchPos = s.latchPos := rfl

end Sys2Proof.Machine
end

