-- ==== Sys2Proof/Laws/Bus.lean ====
section
/-!
SUPPORT. The bus primitives as runs of line writes: a latch frame is the line writes of `latchEvents`, in order, and
changes nothing but the lines, the bus trace and the chain.
-/

namespace Sys2Proof.Machine

theorem emit_append (es fs : List BusEvent) (s : State) : emit (es ++ fs) s = emit fs (emit es s) := by
  simp [emit, List.foldl_append]

@[simp] theorem emit_nil (s : State) : emit [] s = s := rfl

@[simp] theorem emit_cons (e : BusEvent) (es : List BusEvent) (s : State) :
    emit (e :: es) s = emit es (lineWrite e.line e.level s) := rfl

theorem sendBit_eq_emit (b : Bool) (s : State) : sendBit b s = emit (bitEvents b) s := rfl

theorem foldl_sendBit_eq_emit (bs : List Bool) (s : State) :
    bs.foldl (fun s b => sendBit b s) s = emit (bs.flatMap bitEvents) s := by
  induction bs generalizing s with
  | nil => rfl
  | cons b bs ih => rw [List.foldl_cons, ih, List.flatMap_cons, emit_append, sendBit_eq_emit]

theorem frameEvents_eq (a d : Byte) :
    frameEvents a d = (bitsMsbFirst a ++ bitsMsbFirst d).flatMap bitEvents := by
  have h : (List.range 16).reverse = [15, 14, 13, 12, 11, 10, 9, 8, 7, 6, 5, 4, 3, 2, 1, 0] := by decide
  simp only [frameEvents, bitsMsbFirst, h, List.flatMap_cons, List.flatMap_nil, List.cons_append, List.nil_append,
    BitVec.getLsbD_append]
  rfl

theorem sendFrame_eq_emit (a d : Byte) (s : State) : sendFrame a d s = emit (frameEvents a d) s := by
  rw [frameEvents_eq, List.flatMap_append, emit_append, ← foldl_sendBit_eq_emit, ← foldl_sendBit_eq_emit]
  rfl

/-- A latch frame is its line writes in order (R104). -/
theorem latchFrame_eq_emit (fs : List (Byte × Byte)) (s : State) : latchFrame fs s = emit (latchEvents fs) s := by
  have h : ∀ s, fs.foldl (fun s f => sendFrame f.1 f.2 s) s = emit (fs.flatMap fun f => frameEvents f.1 f.2) s := by
    induction fs with
    | nil => intro s; rfl
    | cons f fs ih => intro s; rw [List.foldl_cons, ih, List.flatMap_cons, emit_append, sendFrame_eq_emit]
  simp only [latchFrame, latchEvents, h]
  rw [List.cons_append, emit_cons, emit_append]
  rfl

/-- What a run of line writes does: every event is appended, the chain sees each in order, the lines follow, and nothing
else changes. -/
theorem emit_eq (es : List BusEvent) (s : State) :
    emit es s =
      { s with
        clk := (es.foldl State.setLine s).clk
        load := (es.foldl State.setLine s).load
        din := (es.foldl State.setLine s).din
        bus := s.bus ++ es
        chain := watch s.chain es } := by
  induction es generalizing s with
  | nil => simp [watch]
  | cons e es ih =>
    have hl : ∀ (l : List BusEvent) (a b : State), a.clk = b.clk → a.load = b.load → a.din = b.din →
        (l.foldl State.setLine a).clk = (l.foldl State.setLine b).clk ∧
        (l.foldl State.setLine a).load = (l.foldl State.setLine b).load ∧
        (l.foldl State.setLine a).din = (l.foldl State.setLine b).din := by
      intro l
      induction l with
      | nil => intro a b h1 h2 h3; exact ⟨h1, h2, h3⟩
      | cons e l ih =>
        intro a b h1 h2 h3
        obtain ⟨line, level⟩ := e
        cases line <;> exact ih _ _ (by simp [State.setLine, *]) (by simp [State.setLine, *]) (by simp [State.setLine, *])
    obtain ⟨line, level⟩ := e
    have h := hl es (lineWrite line level s) (s.setLine ⟨line, level⟩) rfl rfl rfl
    rw [emit_cons, ih, h.1, h.2.1, h.2.2]
    cases line <;> simp [lineWrite, State.setLine, watch, List.foldl_cons]

@[simp] theorem emit_bus (es : List BusEvent) (s : State) : (emit es s).bus = s.bus ++ es := by rw [emit_eq]

@[simp] theorem emit_chain (es : List BusEvent) (s : State) : (emit es s).chain = watch s.chain es := by rw [emit_eq]

@[simp] theorem emit_cfg (es : List BusEvent) (s : State) : (emit es s).cfg = s.cfg := by rw [emit_eq]

@[simp] theorem emit_pix (es : List BusEvent) (s : State) : (emit es s).pix = s.pix := by rw [emit_eq]

/-- A CONFIGURE's line writes (R105, R106). -/
theorem configure_eq_emit (reg val : Byte) (s : State) :
    latchFrame (configureFrames s.cfg reg val) s = emit (configureEvents s.cfg.mc reg val) s :=
  latchFrame_eq_emit _ s

/-- A RENDER's line writes (R110, R115). -/
theorem render_eq_emit (s : State) : rowOrder.foldl renderRow s = emit (renderEvents s.cfg s.pix) s := by
  have h : ∀ (rs : List (BitVec 3)) (t : State), t.cfg = s.cfg → t.pix = s.pix →
      rs.foldl renderRow t = emit (rs.flatMap fun r => latchEvents (rowFrames s.cfg s.pix r)) t := by
    intro rs
    induction rs with
    | nil => intro t _ _; rfl
    | cons r rs ih =>
      intro t hc hp
      have hr : renderRow t r = emit (latchEvents (rowFrames s.cfg s.pix r)) t := by
        simp only [renderRow, latchFrame_eq_emit, hc, hp]
      rw [List.foldl_cons, ih (renderRow t r) (by rw [hr, emit_cfg, hc]) (by rw [hr, emit_pix, hp]),
        List.flatMap_cons, emit_append, hr]
  exact h rowOrder s rfl rfl

end Sys2Proof.Machine
end

