-- ==== Sys2Proof/Laws/Chain.lean ====
section
/-!
SUPPORT. The display chain: what a shift and a latch leave unchanged, the two readings of the address map, and a
register read after a register write.
-/

namespace Sys2Proof.Machine

@[simp] theorem shiftIn_length (b : Level) (cs : List Chip) : (shiftIn b cs).length = cs.length := by
  induction cs generalizing b with
  | nil => rfl
  | cons c cs ih => simp [shiftIn, ih]

/-- The bit shifted into each position: DIN at position 0, the top bit of the position before it elsewhere (R133). -/
theorem shiftIn_getElem? (b : Level) (cs : List Chip) (j : Nat) :
    (shiftIn b cs)[j]? =
      cs[j]?.map fun c =>
        { c with sr := c.sr.shiftConcat (if j = 0 then b else (cs[j - 1]?.map (·.sr.msb)).getD false) } := by
  induction cs generalizing b j with
  | nil => simp [shiftIn]
  | cons c cs ih =>
    cases j with
    | zero => simp [shiftIn]
    | succ j =>
      simp only [shiftIn, List.getElem?_cons_succ, ih, Nat.add_sub_cancel, Nat.add_one_ne_zero, if_false]
      cases j with
      | zero => simp
      | succ j => simp

theorem latchAll_length {cs cs' : List Chip} (h : latchAll cs = some cs') : cs'.length = cs.length := by
  induction cs generalizing cs' with
  | nil => cases h; rfl
  | cons c cs ih =>
    simp only [latchAll] at h
    split at h
    · cases h
      simp [ih ‹_›]
    · cases h

/-- A latch acts on every position by itself (R134). -/
theorem latchAll_getElem? {cs cs' : List Chip} (h : latchAll cs = some cs') (j : Nat) :
    cs'[j]? = cs[j]?.bind Chip.latch := by
  induction cs generalizing cs' j with
  | nil => cases h; simp
  | cons c cs ih =>
    simp only [latchAll] at h
    split at h
    · rename_i c' rest hc hr
      cases h
      cases j with
      | zero => simp [hc]
      | succ j => simp [ih hr]
    · cases h

theorem latchAll_eq_none {cs : List Chip} : latchAll cs = none ↔ ∃ c ∈ cs, c.latch = none := by
  induction cs with
  | nil => simp [latchAll]
  | cons c cs ih =>
    simp only [latchAll, List.mem_cons, exists_eq_or_imp, ← ih]
    cases hc : c.latch <;> cases hr : latchAll cs <;> simp

/-- The number of chips never changes (R131). -/
theorem see_length {c c' : Chain} {e : BusEvent} (h : c.see e = some c') : c'.chips.length = c.chips.length := by
  obtain ⟨line, level⟩ := e
  cases line with
  | din => cases h; rfl
  | clk =>
    simp only [Chain.see] at h
    split at h <;> cases h <;> simp
  | load =>
    simp only [Chain.see] at h
    split at h
    · split at h
      · cases h
        exact latchAll_length ‹_›
      · cases h
    · cases h; rfl

@[simp] theorem watch_nil (c : Option Chain) : watch c [] = c := rfl

@[simp] theorem watch_cons (c : Option Chain) (e : BusEvent) (es : List BusEvent) :
    watch c (e :: es) = watch (c.bind (·.see e)) es := rfl

@[simp] theorem watch_none (es : List BusEvent) : watch none es = none := by
  induction es with
  | nil => rfl
  | cons e es ih => simpa using ih

theorem watch_append (c : Option Chain) (es fs : List BusEvent) : watch c (es ++ fs) = watch (watch c es) fs := by
  simp [watch, List.foldl_append]

theorem watch_length {c c' : Chain} {es : List BusEvent} (h : watch (some c) es = some c') :
    c'.chips.length = c.chips.length := by
  induction es generalizing c with
  | nil => cases h; rfl
  | cons e es ih =>
    rw [watch_cons, Option.bind_some] at h
    cases hs : c.see e with
    | none => rw [hs, watch_none] at h; cases h
    | some d => rw [hs] at h; rw [ih h, see_length hs]

/-- The register file has the addresses of R135 and no others. -/
theorem fileSlot_eq_none {a : BitVec 4} : fileSlot a = none ↔ a = 0x0#4 ∨ a = 0xD#4 ∨ a = 0xE#4 := by
  revert a; decide

/-- No two addresses share a register. -/
theorem fileSlot_inj : ∀ {a b : BitVec 4} {i : Fin 13}, fileSlot a = some i → fileSlot b = some i → a = b := by
  decide

@[simp] theorem fileSlot_slotAddress (i : Fin 13) : fileSlot (BitVec.ofNat 4 (slotAddress i)) = some i := by
  revert i; decide

theorem reg_eq_none {c : Chip} {a : BitVec 4} : c.reg a = none ↔ a = 0x0#4 ∨ a = 0xD#4 ∨ a = 0xE#4 := by
  rw [Chip.reg, Option.map_eq_none_iff, fileSlot_eq_none]

/-- A register read after a register write. -/
theorem reg_put (c : Chip) (a b : BitVec 4) (d : Byte) :
    (c.put a d).reg b = if b = a then (fileSlot a).map (fun _ => d) else c.reg b := by
  cases ha : fileSlot a with
  | none =>
    simp only [Chip.put, ha, Option.map_none]
    split
    · subst b; simp [Chip.reg, ha]
    · rfl
  | some i =>
    simp only [Chip.put, ha]
    by_cases hb : b = a
    · subst b; simp [Chip.reg, ha]
    · rw [if_neg hb]
      cases hb' : fileSlot b with
      | none => simp [Chip.reg, hb']
      | some k =>
        have hik : i.val ≠ k.val := fun e => hb (fileSlot_inj hb' (Fin.ext e ▸ ha))
        simp [Chip.reg, hb', Vector.getElem_set_ne _ _ hik]

@[simp] theorem put_sr (c : Chip) (a : BitVec 4) (d : Byte) : (c.put a d).sr = c.sr := by
  rw [Chip.put]; split <;> rfl

/-- What one register write can do (R135 to R137). -/
theorem regWrite_cases (c : Chip) (a : BitVec 4) (d : Byte) :
    a = 0x0#4 ∧ c.regWrite a d = some c ∨
      (a = 0xD#4 ∨ a = 0xE#4) ∧ c.regWrite a d = none ∨
      a ≠ 0x0#4 ∧ (fileSlot a).isSome = true ∧ c.regWrite a d = some (c.put a d) := by
  by_cases h0 : a = 0x0#4
  · exact .inl ⟨h0, by simp [Chip.regWrite, h0]⟩
  · cases hs : fileSlot a with
    | none => exact .inr (.inl ⟨(fileSlot_eq_none.mp hs).resolve_left h0, by simp [Chip.regWrite, h0, hs]⟩)
    | some i => exact .inr (.inr ⟨h0, rfl, by simp [Chip.regWrite, h0, hs]⟩)

end Sys2Proof.Machine
end

