-- ==== Sys2Proof/Laws/Food.lean ====
section
/-!
SUPPORT. Cells, movement and the food oracle: what a conversion, a move and a draw can give.
-/

namespace Sys2Proof.Machine

theorem isColumnBit_shift (k : BitVec 3) : isColumnBit (0x01#8 <<< k.toNat) = true := by
  revert k; decide

/-- The mask form of a grid cell is a valid cell exactly when the grid cell is on the grid (R161, R162). -/
@[simp] theorem toCell_valid (mc : Nat) (g : GridCell) : g.toCell.valid mc = g.valid mc := by
  show (decide (g.module < mc) && isColumnBit (0x01#8 <<< g.col.toNat)) = decide (g.module < mc)
  rw [isColumnBit_shift, Bool.and_true]

theorem exists_col_of_columnBit (b : Byte) (h : isColumnBit b = true) : ∃ k : BitVec 3, 0x01#8 <<< k.toNat = b := by
  simp only [isColumnBit, Bool.or_eq_true, beq_iff_eq] at h
  rcases h with ((((((h | h) | h) | h) | h) | h) | h) | h <;> subst h
  exacts [⟨0#3, by decide⟩, ⟨1#3, by decide⟩, ⟨2#3, by decide⟩, ⟨3#3, by decide⟩, ⟨4#3, by decide⟩, ⟨5#3, by decide⟩,
    ⟨6#3, by decide⟩, ⟨7#3, by decide⟩]

theorem mem_gridCells {mc : Nat} {g : GridCell} : g ∈ gridCells mc ↔ g.valid mc = true := by
  obtain ⟨r, m, k⟩ := g
  simp only [gridCells, List.mem_flatMap, List.mem_map, List.mem_range, GridCell.valid, decide_eq_true_eq, rows, cols]
  constructor
  · rintro ⟨_, _, _, hm, _, _, e⟩
    injection e with _ e _
    omega
  · intro h
    exact ⟨r.toNat, r.isLt, m, h, k.toNat, k.isLt, by simp⟩

/-- Every valid cell is the mask form of a cell of the grid (R160, R161). -/
theorem exists_gridCell {mc : Nat} {c : Cell} (h : c.valid mc = true) : ∃ g ∈ gridCells mc, g.toCell = c := by
  obtain ⟨r, m, b⟩ := c
  simp only [Cell.valid, Bool.and_eq_true, decide_eq_true_eq] at h
  obtain ⟨k, rfl⟩ := exists_col_of_columnBit b h.2
  exact ⟨⟨r, m, k⟩, mem_gridCells.mpr (by simp [GridCell.valid, h.1]), rfl⟩

theorem toCell_ne_zero (g : GridCell) : g.toCell ≠ Cell.zero := by
  intro e
  have h := isColumnBit_shift g.col
  rw [show 0x01#8 <<< g.col.toNat = (0x00#8 : Byte) from congrArg Cell.columnBit e] at h
  exact absurd h (by decide)

theorem zero_not_valid (mc : Nat) : Cell.zero.valid mc = false := by
  simp [Cell.valid, Cell.zero, isColumnBit]

theorem stepModule_lt {mc m : Nat} (sign : StepSign) (h : m < mc) : stepModule sign mc m < mc := by
  cases sign <;> exact Nat.mod_lt _ (by omega)

theorem isColumnBit_shiftRight (b : Byte) (h : isColumnBit b = true) (hb : b ≠ 0x01#8) :
    isColumnBit (b >>> 1) = true := by
  revert b; decide

theorem isColumnBit_shiftLeft (b : Byte) (h : isColumnBit b = true) (hb : b ≠ 0x80#8) :
    isColumnBit (b <<< 1) = true := by
  revert b; decide

/-- Movement on the torus leaves no grid (R195 to R198). -/
theorem move_valid {cfg : Config} {c : Cell} (d : Dir) (h : c.valid cfg.mc = true) :
    (move cfg c d).valid cfg.mc = true := by
  have hv := h
  simp only [Cell.valid, Bool.and_eq_true, decide_eq_true_eq] at h
  cases d with
  | up => exact hv
  | down => exact hv
  | right =>
    simp only [move, moveRight]
    split
    · simp only [Cell.valid, stepModule_lt _ h.1, decide_true, Bool.true_and]; decide
    · simp [Cell.valid, h.1, isColumnBit_shiftRight _ h.2 ‹_›]
  | left =>
    simp only [move, moveLeft]
    split
    · simp only [Cell.valid, stepModule_lt _ h.1, decide_true, Bool.true_and]; decide
    · simp [Cell.valid, h.1, isColumnBit_shiftLeft _ h.2 ‹_›]

theorem isFree_iff {mc : Nat} {X : List Cell} {g : GridCell} :
    isFree mc X g = true ↔ g.valid mc = true ∧ g.toCell ∉ X := by
  simp [isFree]

theorem mem_freeCells {mc : Nat} {X : List Cell} {g : GridCell} :
    g ∈ freeCells mc X ↔ g.valid mc = true ∧ g.toCell ∉ X := by
  simp [freeCells, mem_gridCells, isFree_iff]

theorem firstAccepted_accepts {p : GridCell → Bool} {l : List GridCell} {g : GridCell} {rest : List GridCell}
    (h : firstAccepted p l = some (g, rest)) : p g = true := by
  induction l with
  | nil => cases h
  | cons a l ih =>
    simp only [firstAccepted] at h
    split at h
    · cases h; assumption
    · exact ih h

/-- Whatever a draw answers is a free cell (R167). -/
theorem drawFreeCell_free {mc n : Nat} {X : List Cell} {ds : List GridCell} {d : Draw}
    (h : drawFreeCell mc X ds n = some d) : d.cell.valid mc = true ∧ d.cell.toCell ∉ X := by
  simp only [drawFreeCell] at h
  split at h
  · rename_i e
    cases h
    exact isFree_iff.mp (firstAccepted_accepts e)
  · split at h
    · cases h
    · rename_i f fs e
      cases h
      have hlt : Config.foodChoice n % (f :: fs).length < (f :: fs).length := Nat.mod_lt _ (by simp)
      refine mem_freeCells.mp ?_
      simp only [e, List.getD_eq_getElem _ _ hlt]
      exact List.getElem_mem hlt

/-- A draw has an answer exactly when some cell is free (R167). -/
theorem drawFreeCell_isSome {mc n : Nat} {X : List Cell} {ds : List GridCell} :
    (drawFreeCell mc X ds n).isSome = true ↔ ∃ g : GridCell, g.valid mc = true ∧ g.toCell ∉ X := by
  constructor
  · intro h
    obtain ⟨d, hd⟩ := Option.isSome_iff_exists.mp h
    exact ⟨d.cell, drawFreeCell_free hd⟩
  · rintro ⟨g, hg⟩
    have hm : g ∈ freeCells mc X := mem_freeCells.mpr hg
    simp only [drawFreeCell]
    split
    · rfl
    · split
      · rename_i e
        simp [e] at hm
      · rfl

/-- A supplied sample that is free is the draw's answer. -/
theorem drawFreeCell_sample {mc : Nat} {X : List Cell} {g : GridCell} (ds : List GridCell) (n : Nat)
    (h : g.valid mc = true ∧ g.toCell ∉ X) : drawFreeCell mc X (g :: ds) n = some ⟨g, ds, n⟩ := by
  simp [drawFreeCell, firstAccepted, isFree_iff.mpr h]

end Sys2Proof.Machine
end

