-- ==== Sys2Proof/Laws/Memory.lean ====
section
/-!
SUPPORT. The Pixel Buffer: a read after a write, the canonical form and the index space kept by every operation, and
what setting and clearing one pixel does to every other.
-/

namespace Sys2Proof.Machine

theorem Memory.read_write_other {m : Memory} {a b : Nat} (v : Byte) (h : b ≠ a) :
    (m.write a v).read b = m.read b := by
  induction m with
  | nil => by_cases hv : v = unlistedByte <;> simp [Memory.write, Memory.read, hv, h.symm]
  | cons p rest ih =>
    obtain ⟨k, x⟩ := p
    simp only [Memory.write]
    split
    · split <;> simp [Memory.read, h.symm]
    · split
      · rename_i _ hak
        subst hak
        split <;> simp [Memory.read, h.symm]
      · simp [Memory.read, ih]

theorem Memory.wfAbove_read_below {m : Memory} {lo a : Nat} (h : m.wfAbove lo = true) (ha : a < lo) :
    m.read a = unlistedByte := by
  induction m generalizing lo with
  | nil => rfl
  | cons p rest ih =>
    obtain ⟨k, x⟩ := p
    simp only [Memory.wfAbove, Bool.and_eq_true, decide_eq_true_eq] at h
    have hk : k ≠ a := by omega
    simp [Memory.read, hk, ih h.2 (by omega)]

theorem Memory.wfAbove_mono {m : Memory} {lo lo' : Nat} (h : m.wfAbove lo = true) (hl : lo' ≤ lo) :
    m.wfAbove lo' = true := by
  cases m with
  | nil => rfl
  | cons p rest =>
    simp only [Memory.wfAbove, Bool.and_eq_true, decide_eq_true_eq] at h ⊢
    exact ⟨⟨by omega, h.1.2⟩, h.2⟩

theorem Memory.read_write_same_above {m : Memory} {lo a : Nat} (v : Byte) (h : m.wfAbove lo = true) :
    (m.write a v).read a = v := by
  induction m generalizing lo with
  | nil => by_cases hv : v = unlistedByte <;> simp [Memory.write, Memory.read, hv]
  | cons p rest ih =>
    obtain ⟨k, x⟩ := p
    simp only [Memory.wfAbove, Bool.and_eq_true, decide_eq_true_eq] at h
    simp only [Memory.write]
    split
    · split
      · rename_i hlt hv
        have hk : k ≠ a := by omega
        simp [Memory.read, hk, hv, wfAbove_read_below h.2 (by omega : a < k + 1)]
      · simp [Memory.read]
    · split
      · rename_i _ hak
        subst hak
        split
        · rename_i hv
          simp [hv, wfAbove_read_below h.2 (Nat.lt_succ_self a)]
        · simp [Memory.read]
      · rename_i hlt hak
        simp [Memory.read, Ne.symm hak, ih h.2]

/-- A read after a write to the same index gives the value written. -/
theorem Memory.read_write_same {m : Memory} (a : Nat) (v : Byte) (h : m.wf = true) : (m.write a v).read a = v :=
  read_write_same_above v h

theorem Memory.wfAbove_write {m : Memory} {lo a : Nat} (v : Byte) (h : m.wfAbove lo = true) (ha : lo ≤ a) :
    (m.write a v).wfAbove lo = true := by
  induction m generalizing lo with
  | nil => by_cases hv : v = unlistedByte <;> simp [Memory.write, Memory.wfAbove, hv, ha]
  | cons p rest ih =>
    obtain ⟨k, x⟩ := p
    have h' := h
    simp only [Memory.wfAbove, Bool.and_eq_true, decide_eq_true_eq, bne_iff_ne] at h
    simp only [Memory.write]
    split
    · split
      · exact h'
      · rename_i hlt hv
        simp [Memory.wfAbove, ha, hv, h.1.2, h.2, hlt]
    · split
      · rename_i _ hak
        subst hak
        split
        · exact wfAbove_mono h.2 (by omega)
        · rename_i hv
          simp [Memory.wfAbove, ha, hv, h.2]
      · rename_i hlt hak
        simp [Memory.wfAbove, h.1.1, h.1.2, ih h.2 (by omega)]

/-- Every write keeps the canonical form. -/
theorem Memory.wf_write {m : Memory} (a : Nat) (v : Byte) (h : m.wf = true) : (m.write a v).wf = true :=
  wfAbove_write v h (Nat.zero_le a)

/-- A write inside the space lists no index outside it. -/
theorem Memory.inSpace_write {m : Memory} {n a : Nat} (v : Byte) (h : ∀ p ∈ m, p.1 < n) (ha : a < n) :
    ∀ p ∈ m.write a v, p.1 < n := by
  induction m with
  | nil => by_cases hv : v = unlistedByte <;> simp [Memory.write, hv, ha]
  | cons q rest ih =>
    obtain ⟨k, x⟩ := q
    have hk : k < n := h (k, x) (by simp)
    have hr : ∀ p ∈ rest, p.1 < n := fun p hp => h p (by simp [hp])
    intro p hp
    simp only [Memory.write] at hp
    split at hp
    · split at hp
      · exact h p hp
      · rcases List.mem_cons.mp hp with rfl | hp
        · exact ha
        · exact h p hp
    · split at hp
      · split at hp
        · exact hr p hp
        · rcases List.mem_cons.mp hp with rfl | hp
          · exact ha
          · exact hr p hp
      · rcases List.mem_cons.mp hp with rfl | hp
        · exact hk
        · exact ih hr p hp

theorem pixIndex_lt {mc m : Nat} (r : BitVec 3) (h : m < mc) : pixIndex mc r m < 8 * mc := by
  have hr : r.toNat ≤ 7 := by have := r.isLt; omega
  have : r.toNat * mc ≤ 7 * mc := Nat.mul_le_mul_right mc hr
  simp only [pixIndex]
  omega

/-- Two pixels of the chain share a byte only in the same row and module. -/
theorem pixIndex_inj {mc m m' : Nat} {r r' : BitVec 3} (h : m < mc) (h' : m' < mc)
    (e : pixIndex mc r m = pixIndex mc r' m') : r = r' ∧ m = m' := by
  simp only [pixIndex] at e
  have hd := congrArg (· / mc) e
  have hm := congrArg (· % mc) e
  simp only [Nat.mul_comm _ mc, Nat.mul_add_div (by omega : 0 < mc), Nat.div_eq_of_lt h, Nat.div_eq_of_lt h',
    Nat.add_zero, Nat.mul_add_mod, Nat.mod_eq_of_lt h, Nat.mod_eq_of_lt h'] at hd hm
  exact ⟨BitVec.eq_of_toNat_eq hd, hm⟩

theorem readPix_write_other {mc m m' : Nat} {r r' : BitVec 3} {mem : Memory} (v : Byte) (h : m < mc) (h' : m' < mc)
    (ne : ¬(r' = r ∧ m' = m)) : readPix mc (mem.write (pixIndex mc r m) v) r' m' = readPix mc mem r' m' :=
  Memory.read_write_other v fun e => ne (pixIndex_inj h' h e)

theorem readPix_pixSet {mc : Nat} {mem : Memory} {c : Cell} (hm : mem.wf = true) :
    readPix mc (pixSetIn mc c mem) c.row c.module = readPix mc mem c.row c.module ||| c.columnBit :=
  Memory.read_write_same _ _ hm

theorem readPix_pixClear {mc : Nat} {mem : Memory} {c : Cell} (hm : mem.wf = true) :
    readPix mc (pixClearIn mc c mem) c.row c.module = readPix mc mem c.row c.module &&& ~~~c.columnBit :=
  Memory.read_write_same _ _ hm

@[simp] theorem wf_pixSetIn {mc : Nat} {mem : Memory} (c : Cell) (h : mem.wf = true) : (pixSetIn mc c mem).wf = true :=
  Memory.wf_write _ _ h

@[simp] theorem wf_pixClearIn {mc : Nat} {mem : Memory} (c : Cell) (h : mem.wf = true) :
    (pixClearIn mc c mem).wf = true :=
  Memory.wf_write _ _ h

theorem inSpace_pixSetIn {mc : Nat} {mem : Memory} {c : Cell} (h : ∀ p ∈ mem, p.1 < 8 * mc) (hc : c.module < mc) :
    ∀ p ∈ pixSetIn mc c mem, p.1 < 8 * mc :=
  Memory.inSpace_write _ h (pixIndex_lt _ hc)

theorem inSpace_pixClearIn {mc : Nat} {mem : Memory} {c : Cell} (h : ∀ p ∈ mem, p.1 < 8 * mc) (hc : c.module < mc) :
    ∀ p ∈ pixClearIn mc c mem, p.1 < 8 * mc :=
  Memory.inSpace_write _ h (pixIndex_lt _ hc)

theorem Cell.module_lt {mc : Nat} {c : Cell} (h : c.valid mc = true) : c.module < mc := by
  simp only [Cell.valid, Bool.and_eq_true, decide_eq_true_eq] at h
  exact h.1

theorem Cell.isColumnBit_of_valid {mc : Nat} {c : Cell} (h : c.valid mc = true) : isColumnBit c.columnBit = true := by
  simp only [Cell.valid, Bool.and_eq_true] at h
  exact h.2

/-- Setting a column bit in a byte: it shows at its own mask, every other mask sees what it saw. -/
theorem or_and_columnBit : ∀ b c d : Byte, isColumnBit c = true → isColumnBit d = true →
    ((b ||| c) &&& d != 0x00#8) = (d == c || b &&& d != 0x00#8) := by
  intro b c d hc hd
  simp only [isColumnBit, Bool.or_eq_true, beq_iff_eq] at hc hd
  revert b
  rcases hc with ((((((h | h) | h) | h) | h) | h) | h) | h <;> subst h <;>
    rcases hd with ((((((h | h) | h) | h) | h) | h) | h) | h <;> subst h <;> decide

/-- Clearing a column bit in a byte: its own mask sees nothing, every other mask sees what it saw. -/
theorem and_not_and_columnBit : ∀ b c d : Byte, isColumnBit c = true → isColumnBit d = true →
    ((b &&& ~~~c) &&& d != 0x00#8) = (d != c && b &&& d != 0x00#8) := by
  intro b c d hc hd
  simp only [isColumnBit, Bool.or_eq_true, beq_iff_eq] at hc hd
  revert b
  rcases hc with ((((((h | h) | h) | h) | h) | h) | h) | h <;> subst h <;>
    rcases hd with ((((((h | h) | h) | h) | h) | h) | h) | h <;> subst h <;> decide

/-- `pix_set(c)` lights the pixel of `c` and changes no other (R165). -/
theorem lit_pixSetIn {mc : Nat} {mem : Memory} {c d : Cell} (hm : mem.wf = true) (hc : c.valid mc = true)
    (hd : d.valid mc = true) : lit mc (pixSetIn mc c mem) d = true ↔ d = c ∨ lit mc mem d = true := by
  by_cases h : d.row = c.row ∧ d.module = c.module
  · simp only [lit, h.1, h.2, readPix_pixSet hm,
      or_and_columnBit _ _ _ (Cell.isColumnBit_of_valid hc) (Cell.isColumnBit_of_valid hd), Bool.or_eq_true, beq_iff_eq]
    cases c
    cases d
    simp_all
  · have hne : d ≠ c := fun e => h (by subst e; exact ⟨rfl, rfl⟩)
    simp only [lit, pixSetIn, readPix_write_other _ (Cell.module_lt hc) (Cell.module_lt hd) h]
    simp [hne]

/-- `pix_clear(c)` darkens the pixel of `c` and changes no other (R166). -/
theorem lit_pixClearIn {mc : Nat} {mem : Memory} {c d : Cell} (hm : mem.wf = true) (hc : c.valid mc = true)
    (hd : d.valid mc = true) : lit mc (pixClearIn mc c mem) d = true ↔ d ≠ c ∧ lit mc mem d = true := by
  by_cases h : d.row = c.row ∧ d.module = c.module
  · simp only [lit, h.1, h.2, readPix_pixClear hm,
      and_not_and_columnBit _ _ _ (Cell.isColumnBit_of_valid hc) (Cell.isColumnBit_of_valid hd), Bool.and_eq_true,
      bne_iff_ne, ne_eq]
    cases c
    cases d
    simp_all
  · have hne : d ≠ c := fun e => h (by subst e; exact ⟨rfl, rfl⟩)
    simp only [lit, pixClearIn, readPix_write_other _ (Cell.module_lt hc) (Cell.module_lt hd) h]
    simp [hne]

end Sys2Proof.Machine
end

