-- ==== Sys2Proof/Laws/Ops.lean ====
section
/-!
SUPPORT. What each shared operation and each meaning can do, said once: if it answers a next state, which one.
-/

namespace Sys2Proof.Machine

/-- A host command that answers: the configuration is admitted, and either the block accepts it and runs it or nothing
changes. -/
theorem hostCommand_next {s t : State} {run : Result} (h : hostCommand s run = .next t) :
    s.cfg.wf = true ∧ (s.accepting = true ∧ run = .next t ∨ s.accepting = false ∧ t = s) := by
  simp only [hostCommand] at h
  split at h
  · split at h
    · exact ⟨‹_›, .inl ⟨‹_›, h⟩⟩
    · cases h
      exact ⟨‹_›, .inr ⟨Bool.eq_false_iff.mpr ‹_›, rfl⟩⟩
  · cases h

theorem hostCommand_accepting {s : State} {run : Result} (hw : s.cfg.wf = true) (ha : s.accepting = true) :
    hostCommand s run = run := by
  simp [hostCommand, hw, ha]

theorem hostCommand_ignored {s : State} {run : Result} (hw : s.cfg.wf = true) (ha : s.accepting = false) :
    hostCommand s run = .next s := by
  simp [hostCommand, hw, ha]

theorem hostCommand_illFormed {s : State} {run : Result} (hw : s.cfg.wf = false) :
    hostCommand s run = .refused .illFormedConfig := by
  simp [hostCommand, hw]

/-- A spawn either places a free cell as food, or hangs because no cell is free (R167, R168, R234). -/
theorem spawnFood_cases (X : List Cell) (k : State → State) (s : State) :
    (∃ d, drawFood X s = some d ∧ d.cell.valid s.cfg.mc = true ∧ d.cell.toCell ∉ X ∧
      spawnFood X k s = k (placeFood d s)) ∨
    ((∀ g : GridCell, g.valid s.cfg.mc = true → g.toCell ∈ X) ∧ spawnFood X k s = hang s) := by
  cases h : drawFood X s with
  | some d =>
    have hf := drawFreeCell_free h
    exact .inl ⟨d, rfl, hf.1, hf.2, by simp [spawnFood, h]⟩
  | none =>
    refine .inr ⟨fun g hg => ?_, by simp [spawnFood, h]⟩
    by_contra hn
    have hs := (drawFreeCell_isSome (n := s.drawCount) (ds := s.draws)).mpr ⟨g, hg, hn⟩
    have hnone : drawFreeCell s.cfg.mc X s.draws s.drawCount = none := h
    rw [hnone] at hs
    cases hs

/-- Setting up a game leaves the configuration, the lines, the traces, the fault, the chain and the inputs but the random
samples as they are (R169, R260). -/
theorem startGame_frame (s : State) :
    (startGame s).cfg = s.cfg ∧ (startGame s).clk = s.clk ∧ (startGame s).load = s.load ∧ (startGame s).din = s.din ∧
      (startGame s).bus = s.bus ∧ (startGame s).fault = s.fault ∧ (startGame s).notices = s.notices ∧
      (startGame s).chain = s.chain ∧ (startGame s).port = s.port ∧ (startGame s).resetReq = s.resetReq ∧
      (startGame s).latchDue = s.latchDue ∧ (startGame s).latchPos = s.latchPos := by
  rcases spawnFood_cases s.cfg.initTrail id (freshGame s) with ⟨d, -, -, -, h⟩ | ⟨-, h⟩ <;>
    · rw [startGame, h]
      exact ⟨rfl, rfl, rfl, rfl, rfl, rfl, rfl, rfl, rfl, rfl, rfl, rfl⟩

/-- What the reset leaves alone (R260): the chain, the configuration, the port and a stand-alone frame. -/
theorem applyReset_frame (s : State) :
    (applyReset s).cfg = s.cfg ∧ (applyReset s).chain = s.chain ∧ (applyReset s).port = s.port ∧
      (applyReset s).latchDue = s.latchDue ∧ (applyReset s).latchPos = s.latchPos := by
  simp [applyReset, startGame_frame]

/-- What an abandoned command leaves: in the chain, its first `n` line writes; in the block, nothing but the port behind its
word and the samples it left (R260). -/
theorem cutByReset_frame (n : Nat) (s t : State) :
    (cutByReset n s t).cfg = t.cfg ∧
      (cutByReset n s t).chain = watch s.chain ((t.bus.drop s.bus.length).take n) ∧
      (cutByReset n s t).port = t.port ∧ (cutByReset n s t).latchDue = t.latchDue ∧
      (cutByReset n s t).latchPos = t.latchPos := by
  simp [cutByReset, applyReset_frame]

/-- A stand-alone frame that answers changed one chip of a present chain. -/
theorem atLatchedChip_next {s t : State} {act : Chip → Chip} (h : atLatchedChip s act = .next t) :
    s.cfg.wf = true ∧ ∃ c chip, s.chain = some c ∧ c.chips[s.latchPos]? = some chip ∧
      t = { s with chain := some { c with chips := c.chips.set s.latchPos (act chip) } } := by
  simp only [atLatchedChip] at h
  split at h
  · refine ⟨‹_›, ?_⟩
    split at h
    · cases h
    · split at h
      · cases h
      · cases h
        exact ⟨_, _, ‹_›, ‹_›, rfl⟩
  · cases h

theorem atLatchedChip_eq {s : State} {act : Chip → Chip} {c : Chain} {chip : Chip} (hw : s.cfg.wf = true)
    (hc : s.chain = some c) (hp : c.chips[s.latchPos]? = some chip) :
    atLatchedChip s act =
      .next { s with chain := some { c with chips := c.chips.set s.latchPos (act chip) } } := by
  simp [atLatchedChip, hw, hc, hp]

/-- CONFIGURE that is accepted is its line writes (R105). -/
theorem execConfigure_eq {s : State} (reg val : Byte) (hw : s.cfg.wf = true) (ha : s.accepting = true) :
    execConfigure reg val s = .next (emit (configureEvents s.cfg.mc reg val) s) := by
  rw [execConfigure, hostCommand_accepting hw ha, configure_eq_emit]

/-- RENDER that is accepted is its line writes (R110). -/
theorem execRender_eq {s : State} (hw : s.cfg.wf = true) (ha : s.accepting = true) :
    execRender s = .next (emit (renderEvents s.cfg s.pix) s) := by
  rw [execRender, hostCommand_accepting hw ha, render_eq_emit]

theorem execNewGame_eq {s : State} (hw : s.cfg.wf = true) (ha : s.accepting = true) :
    execNewGame s = .next (startGame s) :=
  hostCommand_accepting hw ha

theorem execIllegal_eq {s : State} (w : BitVec 32) (hw : s.cfg.wf = true) (ha : s.accepting = true) :
    execIllegal w s = .next (raiseFault .illegalCommand s) :=
  hostCommand_accepting hw ha

/-- TICK that answers: nothing (not accepted, or GameOver), the tick itself, or TrailOverflow (R190, R208, R238). -/
theorem execTick_next {h v : BitVec 10} {s t : State} (e : execTick h v s = .next t) :
    s.cfg.wf = true ∧
      (t = s ∧ (s.accepting = false ∨ s.phase = .gameOver) ∨
        s.tickRuns = true ∧ trailInRange s = true ∧ pixInRange h v s = true ∧ t = runTick h v s ∨
        s.tickRuns = true ∧ tickOverflows h v s = true ∧ t = raiseFault .trailOverflow s) := by
  obtain ⟨hw, ⟨ha, hr⟩ | ⟨ha, rfl⟩⟩ := hostCommand_next e
  · refine ⟨hw, ?_⟩
    cases hp : s.phase with
    | gameOver =>
      rw [hp] at hr
      cases hr
      exact .inl ⟨rfl, .inr rfl⟩
    | running =>
      have htr : s.tickRuns = true := by simp [State.tickRuns, hw, ha, hp]
      simp only [hp] at hr
      split at hr
      · cases hr
        have hb := ‹(trailInRange s && pixInRange h v s) = true›
        rw [Bool.and_eq_true] at hb
        exact .inr (.inl ⟨htr, hb.1, hb.2, rfl⟩)
      · simp only [tickOutOfRange] at hr
        split at hr
        · cases hr
          exact .inr (.inr ⟨htr, ‹_›, rfl⟩)
        · split at hr <;> cases hr
  · exact ⟨hw, .inl ⟨rfl, .inl ha⟩⟩

/-- The four outcomes of a tick that runs (R215, without the hang, which is in the spawn). -/
theorem runTick_cases (h v : BitVec 10) (s : State) :
    (tickOverflows h v s = true ∧ runTick h v s = raiseFault .trailOverflow s) ∨
    (tickOverflows h v s = false ∧ tickCollides h v s = true ∧ runTick h v s = enterGameOver s) ∨
    (tickOverflows h v s = false ∧ tickCollides h v s = false ∧ tickAte h v s = true ∧
      runTick h v s = spawnFood (tickKeep h v s ++ [tickHead h v s]) (appendHead (tickHead h v s))
        (eatFood { s with dir := tickDir h v s, head := tickHead h v s })) ∨
    (tickOverflows h v s = false ∧ tickCollides h v s = false ∧ tickAte h v s = false ∧
      runTick h v s = appendHead (tickHead h v s)
        (vacateTail { s with dir := tickDir h v s, head := tickHead h v s })) := by
  simp only [runTick]
  cases tickOverflows h v s <;> cases tickCollides h v s <;> cases tickAte h v s <;> simp

/-- A reset answers with the reset of the state as it is, or of what the presented command and its first line writes made
of it (R260). -/
theorem stepReset_next {n : Nat} {s t : State} (h : stepReset n s = .next t) :
    (n = 0 ∨ s.hung = true ∨ s.port = []) ∧ t = applyReset s ∨
      0 < n ∧ s.hung = false ∧ ∃ w rest u, s.port = w :: rest ∧
        exec (decodeCommand w) (takeCommand s) = .next u ∧ t = cutByReset n s u := by
  simp only [stepReset, Bool.or_eq_true, decide_eq_true_eq] at h
  split at h
  case isTrue hc =>
    cases h
    exact .inl ⟨hc.imp_right .inl, rfl⟩
  case isFalse hc =>
    simp only [not_or, Bool.not_eq_true] at hc
    split at h
    · cases h
      exact .inl ⟨.inr (.inr ‹_›), rfl⟩
    · simp only [abandonCommand] at h
      split at h
      · cases h
        exact .inr ⟨Nat.pos_of_ne_zero hc.1, hc.2, _, _, _, ‹_›, ‹_›, rfl⟩
      · cases h
      · cases h

/-- What a step can do: the reset, a stand-alone latch, waiting, or the presented command. -/
theorem step_next {s t : State} (h : step s = .next t) :
    s.cfg.wf = true ∧
      ((∃ n, s.resetReq = some n ∧ stepReset n s = .next t) ∨
        s.resetReq = none ∧ s.latchDue = true ∧
          (∃ chip, latchedChip s = some chip ∧ exec (decodeFrame chip.sr) (takeFrame s) = .next t) ∨
        s.resetReq = none ∧ s.latchDue = false ∧ (s.hung = true ∨ s.port = []) ∧ t = s ∨
        s.resetReq = none ∧ s.latchDue = false ∧ s.hung = false ∧
          ∃ w rest, s.port = w :: rest ∧ exec (decodeCommand w) (takeCommand s) = .next t) := by
  simp only [step] at h
  split at h
  case isFalse => cases h
  refine ⟨‹_›, ?_⟩
  split at h
  · exact .inl ⟨_, ‹_›, h⟩
  have hr : s.resetReq = none := ‹_›
  split at h
  · simp only [stepFrame] at h
    split at h
    · cases h
    split at h
    · cases h
    · exact .inr (.inl ⟨hr, ‹_›, _, ‹_›, h⟩)
  · have hl : s.latchDue = false := Bool.eq_false_iff.mpr ‹_›
    simp only [stepCommand] at h
    split at h
    · cases h
      exact .inr (.inr (.inl ⟨hr, hl, .inl ‹_›, rfl⟩))
    · have hh : s.hung = false := Bool.eq_false_iff.mpr ‹_›
      split at h
      · cases h
        exact .inr (.inr (.inl ⟨hr, hl, .inr ‹_›, rfl⟩))
      · exact .inr (.inr (.inr ⟨hr, hl, hh, _, _, ‹_›, h⟩))

end Sys2Proof.Machine
end

