-- ==== Sys2Proof/Laws/Game.lean ====
section
/-!
SUPPORT. What the steps of TICK do to the trail and its window (spec/43_engine_tick.md rules R202 to R206 and R212), and
what a valid window is made of.
-/

namespace Sys2Proof.Machine

theorem trailSlice_length {trail : List Cell} {lo hi : Nat} (h : hi ≤ trail.length) :
    (trailSlice trail lo hi).length = hi - lo := by
  simp [trailSlice]; omega

theorem trailSlice_getElem? (trail : List Cell) (lo hi i : Nat) :
    (trailSlice trail lo hi)[i]? = if lo + i < hi then trail[lo + i]? else none := by
  simp [trailSlice, List.getElem?_take]

/-- A slice grows at its end by the cell written there. -/
theorem trailSlice_set_end {trail : List Cell} {lo hi : Nat} (c : Cell) (h : lo ≤ hi) (hl : hi < trail.length) :
    trailSlice (trail.set hi c) lo (hi + 1) = trailSlice trail lo hi ++ [c] := by
  refine List.ext_getElem? fun i => ?_
  rw [trailSlice_getElem?, List.getElem?_append, trailSlice_length (by omega), trailSlice_getElem?, List.getElem?_set]
  by_cases h1 : lo + i = hi
  · rw [if_pos (by omega), if_pos h1.symm, if_pos (by omega), if_neg (by omega)]
    have : i - (hi - lo) = 0 := by omega
    simp [this]
  · by_cases h2 : lo + i < hi
    · rw [if_pos (by omega), if_neg (by omega), if_pos (by omega), if_pos h2]
    · rw [if_neg (by omega), if_neg (by omega)]
      have : i - (hi - lo) ≠ 0 := by omega
      simp [this]

/-- A slice does not see a write outside it. -/
theorem trailSlice_set_outside {trail : List Cell} {lo hi i : Nat} (c : Cell) (h : i < lo ∨ hi ≤ i) :
    trailSlice (trail.set i c) lo hi = trailSlice trail lo hi := by
  refine List.ext_getElem? fun j => ?_
  rw [trailSlice_getElem?, trailSlice_getElem?]
  split
  · rw [List.getElem?_set_ne (by omega)]
  · rfl

theorem trailSlice_cons {trail : List Cell} {lo hi : Nat} (h : lo < hi) (hl : hi ≤ trail.length) :
    trailSlice trail lo hi = trail.getD lo Cell.zero :: trailSlice trail (lo + 1) hi := by
  refine List.ext_getElem? fun i => ?_
  rw [trailSlice_getElem?]
  cases i with
  | zero =>
    rw [Nat.add_zero, if_pos h, List.getElem?_cons_zero]
    simp [List.getD, List.getElem?_eq_getElem (show lo < trail.length by omega)]
  | succ i =>
    rw [List.getElem?_cons_succ, trailSlice_getElem?]
    simp only [show lo + 1 + i = lo + (i + 1) by omega]

theorem window_length {s : State} (h : s.stepper ≤ s.trail.length) (hl : s.length ≤ s.stepper) :
    s.window.length = s.length := by
  rw [State.window, trailSlice_length h]; omega

/-- The window is its tail cell and the rest (R202). -/
theorem window_eq_tail_cons {s : State} (h : s.stepper ≤ s.trail.length) (hl : s.length ≤ s.stepper)
    (h0 : 0 < s.length) : s.window = s.tail :: trailSlice s.trail (s.stepper - s.length + 1) s.stepper :=
  trailSlice_cons (by omega) h

@[simp] theorem vacateTail_trail_length (s : State) : (vacateTail s).trail.length = s.trail.length := by simp

/-- Where the stepper stands after the append (R205, R206). -/
theorem appendHead_stepper (s : State) (c : Cell) :
    (appendHead c s).stepper = if s.stepper = s.cfg.cap - 1 then s.length else s.stepper + 1 := by
  by_cases h : s.stepper = s.cfg.cap - 1 <;> simp [appendHead, advanceStepper, pixSet, rollover, h]

/-- The trail after the append (R204, R205). -/
theorem appendHead_trail (s : State) (c : Cell) :
    (appendHead c s).trail =
      if s.stepper = s.cfg.cap - 1 then
        trailSlice (s.trail.set s.stepper c) (s.cfg.cap - s.length) s.cfg.cap ++
          List.replicate (s.cfg.cap - s.length) Cell.zero
      else s.trail.set s.stepper c := by
  by_cases h : s.stepper = s.cfg.cap - 1 <;> simp [appendHead, advanceStepper, pixSet, rollover, h]

/-- After the append and the rollover or the increment, the window is the last `LENGTH - 1` cells before the append and
the new head, in this order (R204 to R206, R212). -/
theorem appendHead_window {s : State} (c : Cell) (hl : s.trail.length = s.cfg.cap) (hs : s.stepper < s.cfg.cap)
    (h0 : 0 < s.length) (hn : s.length ≤ s.stepper + 1) :
    (appendHead c s).window = trailSlice s.trail (s.stepper + 1 - s.length) s.stepper ++ [c] := by
  have hi : s.stepper < s.trail.length := by omega
  rw [← trailSlice_set_end c (by omega) hi, State.window, appendHead_length, appendHead_stepper, appendHead_trail]
  by_cases h : s.stepper = s.cfg.cap - 1
  · simp only [if_pos h]
    refine List.ext_getElem? fun i => ?_
    rw [trailSlice_getElem?, trailSlice_getElem?, List.getElem?_append, trailSlice_length (by simp; omega),
      trailSlice_getElem?]
    by_cases hb : i < s.length
    · rw [if_pos (by omega), if_pos (by omega), if_pos (by omega), if_pos (by omega)]
      congr 1
      omega
    · rw [if_neg (by omega), if_neg (by omega)]
  · simp only [if_neg h]

/-- Every slot the append, rollover and increment leave outside the window is ZERO, where it was so before (R205, I4 of
R170). -/
theorem appendHead_outside {s : State} (c : Cell) (hl : s.trail.length = s.cfg.cap) (hs : s.stepper < s.cfg.cap)
    (h0 : 0 < s.length) (hc : s.length < s.cfg.cap)
    (ho : ∀ i, i < s.cfg.cap → i < s.stepper + 1 - s.length ∨ s.stepper ≤ i → s.trail[i]? = some Cell.zero) :
    ∀ i, i < s.cfg.cap →
      i < (appendHead c s).stepper - (appendHead c s).length ∨ (appendHead c s).stepper ≤ i →
      (appendHead c s).trail[i]? = some Cell.zero := by
  intro i hi hx
  rw [appendHead_length, appendHead_stepper] at hx
  rw [appendHead_trail]
  by_cases h : s.stepper = s.cfg.cap - 1
  · rw [if_pos h] at hx ⊢
    rw [List.getElem?_append, trailSlice_length (by simp; omega), if_neg (by omega), List.getElem?_replicate,
      if_pos (by omega)]
  · rw [if_neg h] at hx ⊢
    rw [List.getElem?_set_ne (by omega)]
    exact ho i hi (by omega)

theorem appendHead_trail_length {s : State} (c : Cell) (hl : s.trail.length = s.cfg.cap)
    (hc : s.length ≤ s.cfg.cap) : (appendHead c s).trail.length = s.cfg.cap := by
  rw [appendHead_trail]
  split
  · rw [List.length_append, trailSlice_length (by simp; omega), List.length_replicate]
    omega
  · simpa using hl

/-- The grid has `64 * MC` cells, so no list of distinct valid cells is longer (R7). -/
theorem valid_nodup_length_le {mc : Nat} {cs : List Cell} (hv : ∀ c ∈ cs, c.valid mc = true) (hn : cs.Nodup) :
    cs.length ≤ 64 * mc := by
  have hsub : cs ⊆ (gridCells mc).map GridCell.toCell := fun c hc => by
    obtain ⟨g, hg, rfl⟩ := exists_gridCell (hv c hc)
    exact List.mem_map_of_mem hg
  have h := (List.subperm_of_subset hn hsub).length_le
  have hlen : (gridCells mc).length = 64 * mc := by
    simp [gridCells, rows, cols, List.length_flatMap]
    omega
  simpa [hlen] using h

end Sys2Proof.Machine
end

