-- ==== Sys2Proof/Laws/Legal.lean ====
section
/-!
SUPPORT. A check that evaluates, and implies that a state is legal: every clause over all cells is a clause over the
finite grid.
-/

namespace Sys2Proof.Machine

/-- The clauses of `GameInv`, evaluated. -/
def gameCheck (s : State) : Bool :=
  decide (3 ≤ s.length) && decide (s.length ≤ s.cfg.cap - 1) && decide (s.length ≤ s.stepper)
    && decide (s.stepper ≤ s.cfg.cap - 1) && s.trail[s.stepper - 1]? == some s.head
    && s.window.all (Cell.valid s.cfg.mc) && decide s.window.Nodup
    && (List.range s.cfg.cap).all (fun i =>
      !(decide (i < s.stepper - s.length) || decide (s.stepper ≤ i)) || s.trail[i]? == some Cell.zero)
    && !s.window.contains s.food.toCell
    && (gridCells s.cfg.mc).all fun g =>
      lit s.cfg.mc s.pix g.toCell == (s.window.contains g.toCell || g.toCell == s.food.toCell)

theorem game_of_check {s : State} (h : gameCheck s = true) : GameInv s := by
  simp only [gameCheck, Bool.and_eq_true, decide_eq_true_eq, List.all_eq_true, beq_iff_eq, Bool.not_eq_true',
    List.mem_range, Bool.or_eq_true] at h
  obtain ⟨⟨⟨⟨⟨⟨⟨⟨⟨h1, h2⟩, h3⟩, h4⟩, h5⟩, h6⟩, h7⟩, h8⟩, h9⟩, h10⟩ := h
  refine ⟨⟨h1, h2⟩, ⟨h3, h4⟩, h5, h6, h7, fun i hi ho => ?_, by simpa using h9, fun c hc => ?_⟩
  · rcases h8 i hi with h | h
    · simp at h; omega
    · exact h
  · obtain ⟨g, hg, rfl⟩ := exists_gridCell hc
    rw [h10 g hg]
    simp

/-- The clauses of `LegalState`, evaluated, for a state that is not hung. -/
def legalCheck (s : State) : Bool :=
  s.cfg.wf && decide (s.trail.length = s.cfg.cap) && s.pix.wf && s.pix.all (fun a => decide (a.1 < 8 * s.cfg.mc))
    && s.food.valid s.cfg.mc && s.head.valid s.cfg.mc
    && (match s.chain with
      | none => true
      | some c => decide (c.chips.length = s.cfg.chainLen))
    && gameCheck s

theorem legal_of_check {s : State} (h : legalCheck s = true) : LegalState s := by
  simp only [legalCheck, Bool.and_eq_true, decide_eq_true_eq, List.all_eq_true] at h
  obtain ⟨⟨⟨⟨⟨⟨⟨h1, h2⟩, h3⟩, h4⟩, h5⟩, h6⟩, h7⟩, h8⟩ := h
  refine ⟨h1, h2, h3, h4, h5, h6, fun c hc => ?_, fun _ => game_of_check h8⟩
  simpa [hc] using h7

end Sys2Proof.Machine
end

