-- ==== Sys2Proof/Laws/PerInstr.lean ====
section
/-!
SUPPORT. One law per constructor of `Instr`: the word of a well-formed instruction lies in its own row of
spec/opcode_table.json (match and mask), and the word of an ILLEGAL in none.
-/

namespace Sys2Proof.Laws.TableRow

/-- The row of a wire frame: `mask 0x0F00`, `match addr << 8`. -/
def frameRow (addr : Nat) : OpRow 16 := ⟨0x0F00#16, BitVec.ofNat 16 (addr * 256)⟩

/-- The word is a command word in the row. -/
def commandIn (r : OpRow 32) : Encoded → Bool
  | .command w => r.matches w
  | .frame _ => false

/-- The word is a wire frame in the row of the address. -/
def frameIn (addr : Nat) : Encoded → Bool
  | .command _ => false
  | .frame w => (frameRow addr).matches w

/-- The word is a command word in none of the four rows. -/
def inNoRow : Encoded → Bool
  | .command w => !(rowConfigure.matches w || rowRender.matches w || rowNewGame.matches w || rowTick.matches w)
  | .frame _ => false

/-- The instruction's word lies in its own row of the table. -/
def inOwnRow : Instr → Bool
  | .configure reg val => commandIn rowConfigure (encode (.configure reg val))
  | .render => commandIn rowRender (encode .render)
  | .newGame => commandIn rowNewGame (encode .newGame)
  | .tick h v => commandIn rowTick (encode (.tick h v))
  | .illegal w => inNoRow (encode (.illegal w))
  | .wNoop ign data => frameIn 0x0 (encode (.wNoop ign data))
  | .wDigit0 ign data => frameIn 0x1 (encode (.wDigit0 ign data))
  | .wDigit1 ign data => frameIn 0x2 (encode (.wDigit1 ign data))
  | .wDigit2 ign data => frameIn 0x3 (encode (.wDigit2 ign data))
  | .wDigit3 ign data => frameIn 0x4 (encode (.wDigit3 ign data))
  | .wDigit4 ign data => frameIn 0x5 (encode (.wDigit4 ign data))
  | .wDigit5 ign data => frameIn 0x6 (encode (.wDigit5 ign data))
  | .wDigit6 ign data => frameIn 0x7 (encode (.wDigit6 ign data))
  | .wDigit7 ign data => frameIn 0x8 (encode (.wDigit7 ign data))
  | .wDecode ign data => frameIn 0x9 (encode (.wDecode ign data))
  | .wIntensity ign data => frameIn 0xA (encode (.wIntensity ign data))
  | .wScanLimit ign data => frameIn 0xB (encode (.wScanLimit ign data))
  | .wShutdown ign data => frameIn 0xC (encode (.wShutdown ign data))
  | .wReservedD ign data => frameIn 0xD (encode (.wReservedD ign data))
  | .wReservedE ign data => frameIn 0xE (encode (.wReservedE ign data))
  | .wTest ign data => frameIn 0xF (encode (.wTest ign data))

/-- The law. -/
def Statement (i : Instr) : Prop := i.wellFormed = true → inOwnRow i = true

/-- A matched row fixes any field of the word that its mask covers. -/
theorem field_of_matches {r : OpRow 32} {w : BitVec 32} (lo len : Nat) (h : r.matches w = true)
    (hm : r.mask.extractLsb' lo len = BitVec.allOnes len) :
    w.extractLsb' lo len = r.value.extractLsb' lo len := by
  have e : w &&& r.mask = r.value := by simpa [OpRow.matches] using h
  rw [← e, BitVec.extractLsb'_and, hm, BitVec.and_allOnes]

/-- A frame with an address lies in that address's row. -/
theorem frameIn_encodeFrame (ign : BitVec 4) (data : Byte) (a : BitVec 4) (n : Nat) (h : n = a.toNat) :
    frameIn n (.frame (encodeFrame ign a data)) = true := by
  subst h
  simp only [frameIn, frameRow, OpRow.matches, encodeFrame, beq_iff_eq]
  have hm : (0x0F00#16 : BitVec 16) = 0x0#4 ++ 0xF#4 ++ 0x00#8 := by decide
  have hv : BitVec.ofNat 16 (a.toNat * 256) = 0x0#4 ++ a ++ 0x00#8 := by revert a; decide
  rw [hm, hv, BitVec.and_append, BitVec.and_append, BitVec.and_zero, BitVec.and_zero,
    show (0xF#4 : BitVec 4) = BitVec.allOnes 4 from rfl, BitVec.and_allOnes]

theorem configure (reg val : BitVec 8) : Statement (.configure reg val) := fun _ => by
  simp only [inOwnRow, commandIn, encode, OpRow.matches, rowConfigure, encodeConfigure, beq_iff_eq]
  rw [show (0xFFFF0000#32 : BitVec 32) = BitVec.allOnes 16 ++ 0x00#8 ++ 0x00#8 from by decide,
    show (0x10000000#32 : BitVec 32) = 0x1000#16 ++ 0x00#8 ++ 0x00#8 from by decide,
    BitVec.and_append, BitVec.and_append, BitVec.and_zero, BitVec.and_zero, BitVec.and_allOnes]

theorem render : Statement .render := fun _ => by decide

theorem newGame : Statement .newGame := fun _ => by decide

theorem tick (h v : BitVec 10) : Statement (.tick h v) := fun _ => by
  simp only [inOwnRow, commandIn, encode, OpRow.matches, rowTick, encodeTick, beq_iff_eq]
  rw [show (0xFFF00000#32 : BitVec 32) = BitVec.allOnes 12 ++ 0#10 ++ 0#10 from by decide,
    show (0x40000000#32 : BitVec 32) = 0x400#12 ++ 0#10 ++ 0#10 from by decide,
    BitVec.and_append, BitVec.and_append, BitVec.and_zero, BitVec.and_zero, BitVec.and_allOnes]

theorem illegal (w : BitVec 32) : Statement (.illegal w) := fun hw => by
  simp only [Instr.wellFormed] at hw
  simp only [inOwnRow, inNoRow, encode, Bool.not_eq_true', Bool.or_eq_false_iff]
  have key : ∀ {r : OpRow 32}, (r.matches w = true → isIllegalWord w = false) → r.matches w = false := fun h =>
    Bool.eq_false_iff.mpr fun hm => by simp [h hm] at hw
  refine ⟨⟨⟨key fun hm => ?_, key fun hm => ?_⟩, key fun hm => ?_⟩, key fun hm => ?_⟩
  · simp [isIllegalWord, field_of_matches 28 4 hm (by decide), field_of_matches 16 12 hm (by decide), rowConfigure]
  · simp [isIllegalWord, field_of_matches 28 4 hm (by decide), field_of_matches 0 28 hm (by decide), rowRender]
  · simp [isIllegalWord, field_of_matches 28 4 hm (by decide), field_of_matches 0 28 hm (by decide), rowNewGame]
  · simp [isIllegalWord, field_of_matches 28 4 hm (by decide), field_of_matches 20 8 hm (by decide), rowTick]

theorem wNoop (ign : BitVec 4) (data : Byte) : Statement (.wNoop ign data) := fun _ =>
  frameIn_encodeFrame ign data 0x0#4 0x0 rfl

theorem wDigit0 (ign : BitVec 4) (data : Byte) : Statement (.wDigit0 ign data) := fun _ =>
  frameIn_encodeFrame ign data 0x1#4 0x1 rfl

theorem wDigit1 (ign : BitVec 4) (data : Byte) : Statement (.wDigit1 ign data) := fun _ =>
  frameIn_encodeFrame ign data 0x2#4 0x2 rfl

theorem wDigit2 (ign : BitVec 4) (data : Byte) : Statement (.wDigit2 ign data) := fun _ =>
  frameIn_encodeFrame ign data 0x3#4 0x3 rfl

theorem wDigit3 (ign : BitVec 4) (data : Byte) : Statement (.wDigit3 ign data) := fun _ =>
  frameIn_encodeFrame ign data 0x4#4 0x4 rfl

theorem wDigit4 (ign : BitVec 4) (data : Byte) : Statement (.wDigit4 ign data) := fun _ =>
  frameIn_encodeFrame ign data 0x5#4 0x5 rfl

theorem wDigit5 (ign : BitVec 4) (data : Byte) : Statement (.wDigit5 ign data) := fun _ =>
  frameIn_encodeFrame ign data 0x6#4 0x6 rfl

theorem wDigit6 (ign : BitVec 4) (data : Byte) : Statement (.wDigit6 ign data) := fun _ =>
  frameIn_encodeFrame ign data 0x7#4 0x7 rfl

theorem wDigit7 (ign : BitVec 4) (data : Byte) : Statement (.wDigit7 ign data) := fun _ =>
  frameIn_encodeFrame ign data 0x8#4 0x8 rfl

theorem wDecode (ign : BitVec 4) (data : Byte) : Statement (.wDecode ign data) := fun _ =>
  frameIn_encodeFrame ign data 0x9#4 0x9 rfl

theorem wIntensity (ign : BitVec 4) (data : Byte) : Statement (.wIntensity ign data) := fun _ =>
  frameIn_encodeFrame ign data 0xA#4 0xA rfl

theorem wScanLimit (ign : BitVec 4) (data : Byte) : Statement (.wScanLimit ign data) := fun _ =>
  frameIn_encodeFrame ign data 0xB#4 0xB rfl

theorem wShutdown (ign : BitVec 4) (data : Byte) : Statement (.wShutdown ign data) := fun _ =>
  frameIn_encodeFrame ign data 0xC#4 0xC rfl

theorem wReservedD (ign : BitVec 4) (data : Byte) : Statement (.wReservedD ign data) := fun _ =>
  frameIn_encodeFrame ign data 0xD#4 0xD rfl

theorem wReservedE (ign : BitVec 4) (data : Byte) : Statement (.wReservedE ign data) := fun _ =>
  frameIn_encodeFrame ign data 0xE#4 0xE rfl

theorem wTest (ign : BitVec 4) (data : Byte) : Statement (.wTest ign data) := fun _ =>
  frameIn_encodeFrame ign data 0xF#4 0xF rfl

end Sys2Proof.Laws.TableRow
end

