-- ==== Sys2Proof/Tests/Slice0.lean ====
section
/-!
SUPPORT. The model's own tests. First the checks of well-formedness and of R8, with a term each check refuses; then one
word of every constructor, written out from the formats of spec/30_encoding.md; then single steps whose expected results
stand in spec/95_test_vectors.md; last, for every obligation with hypotheses, a state and operands that meet them.
-/

namespace Sys2Proof.Tests
open Sys2Proof Sys2Proof.Machine

set_option Elab.async false

/-! ### Well-formedness and R8 -/

theorem test_ill_formed_illegal :
    (Instr.illegal 0x10000B07#32).wellFormed = false ∧ (Instr.illegal 0x20000000#32).wellFormed = false ∧
    (Instr.illegal 0x30000000#32).wellFormed = false ∧ (Instr.illegal 0x40080200#32).wellFormed = false := by decide

theorem test_well_formed :
    (Instr.illegal 0x50000000#32).wellFormed = true ∧ (Instr.illegal 0x20000001#32).wellFormed = true ∧
    (Instr.tick 1023#10 0#10).wellFormed = true ∧ (Instr.wReservedD 0#4 0#8).wellFormed = true := by decide

/-- The configuration of vector V1, with a capacity. -/
def oneModule (cap : Nat) : Config :=
  { Config.standard with
    mc := 1
    chainLen := 1
    cap := cap
    initTrail := [⟨4#3, 0, 0x10#8⟩, ⟨4#3, 0, 0x08#8⟩, ⟨4#3, 0, 0x04#8⟩] }

theorem test_config_admitted :
    Config.standard.wf = true ∧ (oneModule 4).wf = true ∧
    { Config.standard with cap := 257 }.wf = true := by decide

theorem test_config_mc_refused : { oneModule 4 with mc := 0, chainLen := 0, initTrail := [] }.wf = false := by decide

theorem test_config_cap_refused : (oneModule 3).wf = false := by decide

theorem test_config_trail_length_refused :
    { oneModule 4 with initTrail := [⟨4#3, 0, 0x10#8⟩, ⟨4#3, 0, 0x08#8⟩] }.wf = false := by decide

theorem test_config_trail_repeat_refused :
    { oneModule 4 with initTrail := [⟨4#3, 0, 0x10#8⟩, ⟨4#3, 0, 0x08#8⟩, ⟨4#3, 0, 0x10#8⟩] }.wf = false := by decide

theorem test_config_trail_mask_refused :
    { oneModule 4 with initTrail := [⟨4#3, 0, 0x10#8⟩, ⟨4#3, 0, 0x0C#8⟩, ⟨4#3, 0, 0x04#8⟩] }.wf = false := by decide

/-- R8's own case: the default trail names module 1, which `MC = 1` does not have. -/
theorem test_config_trail_module_refused :
    { oneModule 4 with initTrail := Config.standard.initTrail }.wf = false := by decide

theorem test_config_chain_length_refused : { oneModule 4 with chainLen := 2 }.wf = false := by decide

/-! ### Decoding: words written bit by bit from the formats of R71, R72 and R80 -/

/-- Format C: OP 0001, twelve zeros, REG 00001011, VAL 00000111. -/
theorem test_decode_configure :
    decodeTableWord 32 0b00010000000000000000101100000111 = some (.configure 0x0B#8 0x07#8) := by decide

/-- Format N: OP 0010 and zeros. -/
theorem test_decode_render : decodeTableWord 32 0b00100000000000000000000000000000 = some .render := by decide

/-- Format N: OP 0011 and zeros. -/
theorem test_decode_new_game : decodeTableWord 32 0b00110000000000000000000000000000 = some .newGame := by decide

/-- Format T: OP 0100, eight zeros, V 1111111111, H 1000000000. -/
theorem test_decode_tick :
    decodeTableWord 32 0b01000000000011111111111000000000 = some (.tick 512#10 1023#10) := by decide

/-- The illegal words of section 2.1 of spec/95_test_vectors.md. -/
theorem test_decode_illegal :
    ([0x00000000#32, 0x50000000#32, 0xF0000000#32, 0x10010000#32, 0x18000B07#32, 0x20000001#32, 0x30100000#32,
      0x40100000#32].all fun w => decodeCommand w == .illegal w) = true := by decide

/-- Wire frames: four ignored bits, the address of R80, the data byte 10100101. -/
theorem test_decode_frames :
    decodeTableWord 16 0b0000000010100101 = some (.wNoop 0x0#4 0xA5#8) ∧
    decodeTableWord 16 0b0000000110100101 = some (.wDigit0 0x0#4 0xA5#8) ∧
    decodeTableWord 16 0b0000001010100101 = some (.wDigit1 0x0#4 0xA5#8) ∧
    decodeTableWord 16 0b0000001110100101 = some (.wDigit2 0x0#4 0xA5#8) ∧
    decodeTableWord 16 0b0000010010100101 = some (.wDigit3 0x0#4 0xA5#8) ∧
    decodeTableWord 16 0b0000010110100101 = some (.wDigit4 0x0#4 0xA5#8) ∧
    decodeTableWord 16 0b0000011010100101 = some (.wDigit5 0x0#4 0xA5#8) ∧
    decodeTableWord 16 0b0000011110100101 = some (.wDigit6 0x0#4 0xA5#8) ∧
    decodeTableWord 16 0b0000100010100101 = some (.wDigit7 0x0#4 0xA5#8) ∧
    decodeTableWord 16 0b0000100110100101 = some (.wDecode 0x0#4 0xA5#8) ∧
    decodeTableWord 16 0b0000101010100101 = some (.wIntensity 0x0#4 0xA5#8) ∧
    decodeTableWord 16 0b0001101110100101 = some (.wScanLimit 0x1#4 0xA5#8) ∧
    decodeTableWord 16 0b0000110010100101 = some (.wShutdown 0x0#4 0xA5#8) ∧
    decodeTableWord 16 0b0000110110100101 = some (.wReservedD 0x0#4 0xA5#8) ∧
    decodeTableWord 16 0b0000111010100101 = some (.wReservedE 0x0#4 0xA5#8) ∧
    decodeTableWord 16 0b1111111110100101 = some (.wTest 0xF#4 0xA5#8) := by decide

theorem test_decode_no_such_width : decodeTableWord 8 0 = none ∧ decodeTableWord 16 0x10000 = none := by decide

/-! ### The text form (R85, R86) -/

theorem test_assemble_commands :
    assembleLine Config.standard "configure 0x0B, 0x07 ; scan limit 7".toList = .ok [0x10000B07#32] ∧
    assembleLine Config.standard "tick 512, 1023".toList = .ok [0x400FFE00#32] ∧
    assembleLine Config.standard "tick_left".toList = .ok [0x40080000#32] ∧
    assembleLine Config.standard "tick 1024, 0".toList = .error .outOfRange := by decide +kernel

/-- The five words of E6. -/
theorem test_assemble_boot :
    assembleLine Config.standard "boot".toList =
      .ok [0x10000B07#32, 0x10000900#32, 0x10000F00#32, 0x10000C01#32, 0x10000A0F#32] := by decide +kernel

/-! ### Operand forms -/

/-- Table T-CLS. -/
theorem test_classify :
    [0#10, 1#10, 399#10, 400#10, 512#10, 600#10, 601#10, 1022#10, 1023#10].map classify =
      [.neg, .neg, .neg, .neutral, .neutral, .neutral, .pos, .pos, .pos] := by decide

/-- Rows of table T-DIR. -/
theorem test_resolve :
    resolve .up .neg .pos = .left ∧ resolve .up .neutral .pos = .up ∧ resolve .down .pos .neg = .right ∧
    resolve .right .neg .neutral = .right ∧ resolve .right .pos .neg = .up ∧ resolve .left .pos .pos = .down ∧
    resolve .left .pos .neutral = .left := by decide

/-- The table of section 2.4. -/
theorem test_move :
    move Config.standard ⟨4#3, 0, 0x04#8⟩ .right = ⟨4#3, 0, 0x02#8⟩ ∧
    move Config.standard ⟨4#3, 3, 0x01#8⟩ .right = ⟨4#3, 0, 0x80#8⟩ ∧
    move Config.standard ⟨4#3, 2, 0x80#8⟩ .left = ⟨4#3, 1, 0x01#8⟩ ∧
    move Config.standard ⟨4#3, 0, 0x80#8⟩ .left = ⟨4#3, 3, 0x01#8⟩ ∧
    move Config.standard ⟨0#3, 1, 0x08#8⟩ .up = ⟨7#3, 1, 0x08#8⟩ ∧
    move Config.standard ⟨7#3, 1, 0x08#8⟩ .down = ⟨0#3, 1, 0x08#8⟩ ∧
    move (oneModule 4) ⟨4#3, 0, 0x01#8⟩ .right = ⟨4#3, 0, 0x80#8⟩ ∧
    move { Config.standard with upDelta := .plus } ⟨0#3, 1, 0x08#8⟩ .up = ⟨1#3, 1, 0x08#8⟩ ∧
    move { Config.standard with rightStep := .minus } ⟨4#3, 0, 0x01#8⟩ .right = ⟨4#3, 3, 0x80#8⟩ := by decide

/-! ### One step -/

/-- A chip with every register 0. -/
def blankChip : Chip where
  sr := 0x0000#16
  regs := Vector.replicate 13 0x00#8

/-- A blank chip with some registers written. -/
def chipWith (writes : List (BitVec 4 × Byte)) : Chip := writes.foldl (fun c w => c.put w.1 w.2) blankChip

/-- A chain of blank chips, its lines at 0. -/
def blankChain (n : Nat) : Chain := ⟨false, false, false, List.replicate n blankChip⟩

/-- After reset, with the draws given and a blank chain. -/
def started (cfg : Config) (draws : List GridCell) : State :=
  { State.powerOn cfg draws with chain := some (blankChain cfg.chainLen) }

/-- S0 of spec/95_test_vectors.md with a capacity. -/
def s0 (cap : Nat) (draws : List GridCell) : State := started { Config.standard with cap := cap } draws

/-- The state after one command word, where there is one. -/
def after (w : BitVec 32) (s : State) : Option State :=
  match step { s with port := [w] } with
  | .next t => some t
  | .fault _ => none
  | .refused _ => none

/-- `PIX[r][m]`. -/
def px (s : State) (r : BitVec 3) (m : Nat) : Byte := readPix s.cfg.mc s.pix r m

/-- The command word leads to a state that passes the check. -/
def leads (w : BitVec 32) (s : State) (check : State → Bool) : Bool := (after w s).any check

/-- V1: 50 writes, lines (1,1,1), and in the chain SR 0x0B07 and Scan Limit 7. -/
theorem test_configure_v1 :
    leads 0x10000B07#32 (started (oneModule 4) []) (fun s =>
      s.bus.length == 50 && s.clk && s.load && s.din &&
      s.chain.map (·.chips.map (·.sr)) == some [0x0B07#16] &&
      s.chain.map (·.chips.map (·.reg 0xB#4)) == some [some 0x07#8]) = true := by decide +kernel

/-- V6: the chip ignores `W[15:12]`. -/
theorem test_configure_v6 :
    leads 0x10001B03#32 (started (oneModule 4) []) (fun s =>
      s.chain.map (·.chips.map (·.reg 0xB#4)) == some [some 0x03#8]) = true := by decide +kernel

/-- V3, its row 0: 98 writes, module 1 sent first, so that position `m` holds module `m`. -/
theorem test_render_v3 :
    let s := renderRow
      { started { Config.standard with mc := 2, chainLen := 2 } [] with pix := [(0, 0x81#8), (1, 0x3C#8)] } 0#3
    s.bus.length = 98 ∧ s.chain.map (·.chips.map (·.reg 0x1#4)) = some [some 0x81#8, some 0x3C#8] := by
  decide +kernel

/-- The count of V4 at `MC = 1`: `8 * 50` writes; the lines end at (1,1,1), because `PIX[7][0]` is odd. -/
theorem test_render_count :
    leads 0x20000000#32 { started (oneModule 4) [] with pix := [(7, 0x0D#8)] } (fun s =>
      s.bus.length == 400 && s.clk && s.load && s.din) = true := by decide +kernel

/-- K9: NEW_GAME in GameOver restarts. -/
theorem test_new_game_k9 :
    leads 0x30000000#32 { s0 64 [⟨0#3, 3, 0#3⟩, ⟨0#3, 3, 0#3⟩] with phase := .gameOver, length := 9, pix := [] }
      (fun s => s.phase == .running && s.length == 3 && s.head == ⟨4#3, 0, 0x04#8⟩ && px s 4#3 0 == 0x14#8 &&
        px s 0#3 1 == 0x08#8 && px s 0#3 3 == 0x01#8) = true := by decide +kernel

/-- K10: the all-zero word records IllegalCommand. -/
theorem test_illegal_k10 :
    leads 0x00000000#32 (s0 64 [⟨0#3, 3, 0#3⟩]) (fun s =>
      faultCode s.fault == 1 && s.length == 3 && s.bus == []) = true := by decide +kernel

/-- K12: a fault stays. -/
theorem test_illegal_k12 :
    leads 0x50000000#32 { s0 64 [] with fault := some .trailOverflow } (fun s =>
      s.fault == some .trailOverflow) = true := by decide +kernel

/-- E1: one plain move. -/
theorem test_tick_e1 :
    leads 0x40080200#32 (s0 64 [⟨0#3, 3, 0#3⟩]) (fun s =>
      s.head == ⟨4#3, 0, 0x02#8⟩ && s.length == 3 && s.stepper == 4 && s.trail.head? == some Cell.zero &&
      s.window == [⟨0#3, 1, 0x08#8⟩, ⟨4#3, 0, 0x04#8⟩, ⟨4#3, 0, 0x02#8⟩] &&
      px s 4#3 0 == 0x06#8 && px s 0#3 1 == 0x08#8 && px s 0#3 3 == 0x01#8) = true := by decide +kernel

/-- E2: food at the next head. -/
theorem test_tick_e2 :
    leads 0x40080200#32 (s0 64 [⟨4#3, 0, 1#3⟩, ⟨2#3, 2, 5#3⟩]) (fun s =>
      s.length == 4 && s.stepper == 4 && s.food == ⟨2#3, 2, 5#3⟩ && px s 4#3 0 == 0x16#8 &&
      px s 2#3 2 == 0x20#8) = true := by decide +kernel

/-- The state before the fifth tick of P3, whose head enters the window. -/
def p3 : State :=
  { s0 64 [] with
    dir := .left
    head := ⟨5#3, 0, 0x02#8⟩
    food := ⟨7#3, 3, 7#3⟩
    length := 5
    stepper := 7
    trail := [Cell.zero, Cell.zero, ⟨4#3, 0, 0x04#8⟩, ⟨4#3, 0, 0x02#8⟩, ⟨4#3, 0, 0x01#8⟩, ⟨5#3, 0, 0x01#8⟩,
      ⟨5#3, 0, 0x02#8⟩] ++ List.replicate 57 Cell.zero
    pix := [(16, 0x07#8), (20, 0x03#8), (31, 0x80#8)] }

/-- The state before the fifth tick of P4, whose head enters the tail's cell. -/
def p4 : State :=
  { s0 64 [] with
    dir := .up
    head := ⟨4#3, 0, 0x01#8⟩
    food := ⟨7#3, 3, 7#3⟩
    length := 4
    stepper := 7
    trail := [Cell.zero, Cell.zero, Cell.zero, ⟨4#3, 0, 0x02#8⟩, ⟨5#3, 0, 0x02#8⟩, ⟨5#3, 0, 0x01#8⟩,
      ⟨4#3, 0, 0x01#8⟩] ++ List.replicate 57 Cell.zero
    pix := [(16, 0x03#8), (20, 0x03#8), (31, 0x80#8)] }

theorem test_tick_p3 :
    leads 0x40000200#32 p3 (fun s =>
      s.gameOverOut && s.notices == [.gameOver] && s.dir == .left && s.head == ⟨5#3, 0, 0x02#8⟩ && s.stepper == 7 &&
      px s 4#3 0 == 0x07#8) = true := by decide +kernel

theorem test_tick_p4 :
    leads 0x40080000#32 p4 (fun s =>
      !s.gameOverOut && s.head == ⟨4#3, 0, 0x02#8⟩ && s.stepper == 8 && px s 4#3 0 == 0x03#8 &&
      s.window == [⟨5#3, 0, 0x02#8⟩, ⟨5#3, 0, 0x01#8⟩, ⟨4#3, 0, 0x01#8⟩, ⟨4#3, 0, 0x02#8⟩]) = true := by
  decide +kernel

/-- The state before the third tick of K14 and K16, whose append writes the last slot. -/
def k14 (food : GridCell) (pix : Memory) (draws : List GridCell) : State :=
  { s0 6 [] with
    head := ⟨4#3, 0, 0x01#8⟩
    food := food
    stepper := 5
    trail := [Cell.zero, Cell.zero, ⟨4#3, 0, 0x04#8⟩, ⟨4#3, 0, 0x02#8⟩, ⟨4#3, 0, 0x01#8⟩, Cell.zero]
    pix := pix
    draws := draws }

theorem test_tick_k14 :
    leads 0x40080200#32 (k14 ⟨0#3, 3, 0#3⟩ [(3, 0x01#8), (16, 0x07#8)] []) (fun s =>
      s.stepper == 3 && px s 4#3 0 == 0x03#8 && px s 4#3 1 == 0x80#8 && px s 0#3 3 == 0x01#8 &&
      s.trail == [⟨4#3, 0, 0x02#8⟩, ⟨4#3, 0, 0x01#8⟩, ⟨4#3, 1, 0x80#8⟩, Cell.zero, Cell.zero, Cell.zero]) = true := by
  decide +kernel

theorem test_tick_k16 :
    leads 0x40080200#32 (k14 ⟨4#3, 1, 7#3⟩ [(16, 0x07#8), (17, 0x80#8)] [⟨6#3, 2, 2#3⟩]) (fun s =>
      s.stepper == 4 && s.length == 4 && s.food == ⟨6#3, 2, 2#3⟩ && px s 4#3 0 == 0x07#8 && px s 4#3 1 == 0x80#8 &&
      px s 6#3 2 == 0x04#8 &&
      s.window == [⟨4#3, 0, 0x04#8⟩, ⟨4#3, 0, 0x02#8⟩, ⟨4#3, 0, 0x01#8⟩, ⟨4#3, 1, 0x80#8⟩]) = true := by
  decide +kernel

/-- K3: the capacity fault, before any write. -/
theorem test_tick_k3 :
    leads 0x40080200#32 (s0 4 [⟨4#3, 0, 1#3⟩]) (fun s =>
      faultCode s.fault == 2 && s.length == 3 && s.stepper == 3 && px s 4#3 0 == 0x16#8 &&
      px s 0#3 1 == 0x08#8) = true := by decide +kernel

/-- The hang vector's state: `MC = 1`, `LENGTH = 63`, every cell lit, the food on the next head. -/
def saturated (cap : Nat) : State :=
  { started (oneModule cap) [] with
    food := ⟨4#3, 0, 1#3⟩
    length := 63
    stepper := 63
    trail := (((gridCells 1).map GridCell.toCell).filter fun c =>
        c != ⟨4#3, 0, 0x02#8⟩ && c != ⟨4#3, 0, 0x04#8⟩) ++ [⟨4#3, 0, 0x04#8⟩] ++ List.replicate (cap - 63) Cell.zero
    pix := [(0, 0xFF#8), (1, 0xFF#8), (2, 0xFF#8), (3, 0xFF#8), (4, 0xFF#8), (5, 0xFF#8), (6, 0xFF#8), (7, 0xFF#8)] }

/-- The hang vector: with `CAP = 65` the tick never completes, with `CAP = 64` it faults. -/
theorem test_tick_hang :
    leads 0x40080200#32 (saturated 65) (fun s => s.hung && s.fault == none) = true ∧
    leads 0x40080200#32 (saturated 64) (fun s => !s.hung && s.fault == some .trailOverflow) = true := by
  decide +kernel

/-- R260 from a faulted state: S0 with a fresh draw, the chain as it was. -/
theorem test_reset_of_faulted :
    leads 0x00000000#32
      { s0 64 [⟨0#3, 3, 0#3⟩, ⟨2#3, 2, 2#3⟩] with resetReq := some 0, fault := some .illegalCommand, clk := true }
      (fun s => s.fault == none && !s.clk && s.food == ⟨2#3, 2, 2#3⟩ && s.phase == .running &&
        s.chain == some (blankChain 4)) = true := by decide +kernel

/-- R260 within a CONFIGURE: after LOAD 0 and the 24 writes of the address byte the chip has shifted in 0x0B; after all
bits it holds the frame; the register is written only by the last write, LOAD 1 (R133, R134). The block is reset. -/
theorem test_reset_within_configure :
    (([(25, 0x000B#16, 0x00#8), (49, 0x0B07#16, 0x00#8), (50, 0x0B07#16, 0x07#8)] : List (Nat × BitVec 16 × Byte)).all
      fun p => leads 0x10000B07#32 { started (oneModule 4) [] with resetReq := some p.1 } fun s =>
        s.bus == [] && !s.clk && !s.load && s.port == [] && s.resetReq == none &&
        s.chain.map (·.chips.map (·.sr)) == some [p.2.1] &&
        s.chain.map (·.chips.map (·.reg 0xB#4)) == some [some p.2.2]) = true := by decide +kernel

/-- The chip at `latchPos` after a stand-alone wire frame, where there is one. -/
def afterFrame (w : Nat) (s : State) : Option Chip :=
  match step (s.withFetchWord 16 w) with
  | .next t => latchedChip t
  | .fault _ => none
  | .refused _ => none

/-- R135: each frame writes its register, and the frame stays in the shift register (R134). -/
theorem test_frames_write :
    (afterFrame 0x015A (s0 64 [])).map (fun c => (c.sr, c.reg 0x1#4)) = some (0x015A#16, some 0x5A#8) ∧
    (afterFrame 0x025A (s0 64 [])).map (·.reg 0x2#4) = some (some 0x5A#8) ∧
    (afterFrame 0x035A (s0 64 [])).map (·.reg 0x3#4) = some (some 0x5A#8) ∧
    (afterFrame 0x045A (s0 64 [])).map (·.reg 0x4#4) = some (some 0x5A#8) ∧
    (afterFrame 0x055A (s0 64 [])).map (·.reg 0x5#4) = some (some 0x5A#8) ∧
    (afterFrame 0x065A (s0 64 [])).map (·.reg 0x6#4) = some (some 0x5A#8) ∧
    (afterFrame 0x075A (s0 64 [])).map (·.reg 0x7#4) = some (some 0x5A#8) ∧
    (afterFrame 0x085A (s0 64 [])).map (·.reg 0x8#4) = some (some 0x5A#8) ∧
    (afterFrame 0x095A (s0 64 [])).map (·.reg 0x9#4) = some (some 0x5A#8) ∧
    (afterFrame 0x0A5A (s0 64 [])).map (·.reg 0xA#4) = some (some 0x5A#8) ∧
    (afterFrame 0x0B5A (s0 64 [])).map (·.reg 0xB#4) = some (some 0x5A#8) ∧
    (afterFrame 0x0C5A (s0 64 [])).map (·.reg 0xC#4) = some (some 0x5A#8) ∧
    (afterFrame 0xFF5A (s0 64 [])).map (·.reg 0xF#4) = some (some 0x5A#8) := by decide +kernel

/-- R136: a No-Op frame changes no register. -/
theorem test_frame_noop : afterFrame 0x0055 (s0 64 []) = some { blankChip with sr := 0x0055#16 } := by decide +kernel

/-- R137: addresses 0xD and 0xE are refused. -/
theorem test_frame_undefined :
    step ((s0 64 []).withFetchWord 16 0x0D17) = .refused .undefinedDisplayAddress ∧
    step ((s0 64 []).withFetchWord 16 0x0E17) = .refused .undefinedDisplayAddress := ⟨rfl, rfl⟩

/-- R139 under the default addresses: display test first, then shutdown, the scan limit, code-B decode, last the digit. -/
theorem test_visible_pixel :
    (chipWith [(0xF#4, 0x01#8)]).lit Config.standard 7#3 0#3 = some true ∧
    (chipWith [(0x1#4, 0xFF#8)]).lit Config.standard 0#3 0#3 = some false ∧
    (chipWith [(0xC#4, 0x01#8), (0x4#4, 0xFF#8), (0xB#4, 0x02#8)]).lit Config.standard 3#3 0#3 = some false ∧
    (chipWith [(0xC#4, 0x01#8), (0x9#4, 0x01#8)]).lit Config.standard 0#3 0#3 = none ∧
    (chipWith [(0xC#4, 0x01#8), (0x1#4, 0x80#8)]).lit Config.standard 0#3 7#3 = some true := by decide

/-- Parameters with Display Test and Shutdown changed about (R6, U15). -/
def swapped : Config :=
  { Config.standard with regAddr := { Config.standard.regAddr with displayTest := 0x0C#8, shutdown := 0x0F#8 } }

/-- R6: the display's registers are where REG_ADDR puts them. -/
theorem test_register_addresses :
    addressesApart swapped = true ∧
    (chipWith [(0xC#4, 0x01#8)]).lit swapped 7#3 0#3 = some true ∧
    (chipWith [(0xF#4, 0x01#8), (0x1#4, 0x80#8)]).lit swapped 0#3 7#3 = some true ∧
    (chipWith [(0x1#4, 0x80#8)]).lit swapped 0#3 7#3 = some false := by decide

/-! ### Witnesses: for every obligation with hypotheses, a state and operands that meet them together -/

/-- A running state of one module, whose next head is not the food. -/
def base : State := started (oneModule 8) [⟨0#3, 0, 0#3⟩]

theorem base_legal : LegalState base := legal_of_check (by decide +kernel)

/-- Vector E2's start at one module: the food is the next head. -/
def fed : State := started (oneModule 8) [⟨4#3, 0, 1#3⟩, ⟨2#3, 0, 5#3⟩]

theorem fed_legal : LegalState fed := legal_of_check (by decide +kernel)

theorem p3_legal : LegalState p3 := legal_of_check (by decide +kernel)

theorem p4_legal : LegalState p4 := legal_of_check (by decide +kernel)

theorem k14_legal : LegalState (k14 ⟨0#3, 3, 0#3⟩ [(3, 0x01#8), (16, 0x07#8)] []) :=
  legal_of_check (by decide +kernel)

theorem k16_legal : LegalState (k14 ⟨4#3, 1, 7#3⟩ [(16, 0x07#8), (17, 0x80#8)] [⟨6#3, 2, 2#3⟩]) :=
  legal_of_check (by decide +kernel)

theorem saturated_legal : LegalState (saturated 65) := legal_of_check (by decide +kernel)

/-- DecodeOfEncodeIsIdentity. -/
theorem witness_decode_of_encode :
    (Instr.tick 1023#10 0#10).wellFormed = true ∧ (Instr.illegal 0x00000000#32).wellFormed = true := by decide

/-- ReservedWordsRaiseIllegalCommand, the bounds of each clause: OP 0x0, 0x5 and 0xF, and one bit too many of each
format. -/
theorem witness_reserved_words :
    base.cfg.wf = true ∧ base.accepting = true ∧
    (0x0FFFFFFF#32).extractLsb' 28 4 = 0x0#4 ∧ (0x50000000#32).extractLsb' 28 4 = 0x5#4 ∧
    (0xF0000000#32).extractLsb' 28 4 = 0xF#4 ∧ (0x10010000#32).extractLsb' 16 12 ≠ 0#12 ∧
    (0x38000000#32).extractLsb' 0 28 ≠ 0#28 ∧ (0x40100000#32).extractLsb' 20 8 ≠ 0#8 := by decide +kernel

/-- AssembledWords, at the bounds of the ranges. -/
theorem witness_assembled_words :
    (7 < 8 ∧ 8 ≤ 8 ∧ 1023 < 1024) ∧ (255 < 256 ∧ 0 < 256) ∧ (1023 < 1024 ∧ 0 < 1024) ∧ ¬(256 < 256 ∧ 0 < 256) ∧ ¬(0 < 1024 ∧ 1024 < 1024) := by decide

/-- A faulted state. -/
def faulted : State := { base with fault := some .illegalCommand }

/-- FaultedBlockIsQuiescent. -/
theorem witness_faulted :
    (∃ t, exec (.illegal 0#32) base = .next t ∧ t.fault ≠ base.fault) ∧
    (isCommand .render = true ∧ faulted.cfg.wf = true ∧ faulted.fault.isSome = true) ∧
    (faulted.resetReq = none ∧ ∃ t, step faulted = .next t) :=
  ⟨⟨_, rfl, by decide⟩, by decide +kernel, rfl, _, rfl⟩

/-- StepRunsTheDecodedInstruction: a word at the port, a frame due, and an idle block. -/
theorem witness_step_runs :
    (base.cfg.wf = true ∧ base.resetReq = none) ∧
    (base.latchDue = false ∧ base.hung = false ∧ { base with port := [0x20000000#32] }.port = 0x20000000#32 :: []) ∧
    ({ base with latchDue := true }.latchDue = true ∧ base.chain = some (blankChain 1) ∧
      (blankChain 1).chips[base.latchPos]? = some blankChip) ∧
    base.port = [] := by decide +kernel

/-- ConfigurationIsCheckedAndFixed. -/
theorem witness_configuration :
    { base with cfg := oneModule 3 }.cfg.wf = false ∧ isCommand .newGame = true ∧ ∃ t, step base = .next t :=
  ⟨by decide, by decide, _, rfl⟩

/-- CommandsCompleteInLegalStates. -/
theorem witness_commands_complete : LegalState base ∧ isCommand (.tick 0#10 0#10) = true :=
  ⟨base_legal, by decide⟩

/-- ConfigureBroadcastsOneWrite, ConfigureTraceShape, RenderSendsPixelBuffer, RenderTraceShape, NewGameStartsAFreshGame:
accepted, and faulted. -/
theorem witness_commands_run :
    base.cfg.wf = true ∧ base.accepting = true ∧ faulted.cfg.wf = true ∧ faulted.fault.isSome = true := by
  decide +kernel

/-- LineLevelsBetweenCommands, each clause. -/
theorem witness_line_levels :
    base.accepting = true ∧ (∃ t, exec (.configure 0x0B#8 0x07#8) base = .next t) ∧ (∃ t, exec .render base = .next t) ∧
    (∃ t, exec (.tick 512#10 512#10) base = .next t) ∧ (∃ t, exec .render faulted = .next t) ∧
    isCommand .render = true ∧ faulted.fault.isSome = true :=
  ⟨by decide +kernel, ⟨_, rfl⟩, ⟨_, rfl⟩, ⟨_, rfl⟩, ⟨_, rfl⟩, by decide, by decide⟩

/-- LinesAreWrittenInWholeLatchFrames, DriverCommandsKeepEngineState, ChainSeesWritesInBusOrder,
BlockLearnsNothingOfTheChain. -/
theorem witness_driver_commands :
    (∃ t, exec .render base = .next t) ∧ isCommand .render = true ∧ (∃ t, exec (.illegal 0#32) base = .next t) ∧
    ∃ t, exec (.wNoop 0#4 0#8) base = .next t :=
  ⟨⟨_, rfl⟩, by decide, ⟨_, rfl⟩, _, rfl⟩

/-- ChainShiftsOnClockEdge: position 0 and a position behind it. -/
theorem witness_chain_shift :
    (blankChain 2).clk = false ∧ (blankChain 2).chips[0]? = some blankChip ∧
    (blankChain 2).chips[1]? = some blankChip := by decide

/-- OtherWritesOnlyUpdateKeptLevels: a falling edge, a DIN write, and a CLK write at a high level. -/
theorem witness_other_writes :
    ([(⟨.clk, false⟩, true), (⟨.din, true⟩, false), (⟨.clk, true⟩, true), (⟨.load, false⟩, false)] :
      List (BusEvent × Level)).all (fun p =>
        let c : Chain := { blankChain 1 with clk := p.2 }
        decide ¬(p.1.level = true ∧ (p.1.line = .clk ∧ c.clk = false ∨ p.1.line = .load ∧ c.load = false))) = true := by
  decide

/-- A chain whose chip holds a frame. -/
def framed (w : BitVec 16) : Chain := ⟨false, false, false, [{ blankChip with sr := w }]⟩

/-- LatchWritesOneRegisterPerChip: a defined address, the No-Op address, and both undefined ones. -/
theorem witness_latch :
    (framed 0x0B07#16).load = false ∧ (∃ c', (framed 0x0B07#16).see ⟨.load, true⟩ = some c') ∧
    (∃ c', (framed 0x0055#16).see ⟨.load, true⟩ = some c') ∧ (framed 0xFD00#16).see ⟨.load, true⟩ = none ∧
    (framed 0x0E00#16).see ⟨.load, true⟩ = none ∧ (framed 0x0B07#16).chips[0]? = some { blankChip with sr := 0x0B07#16 } :=
  ⟨rfl, ⟨_, rfl⟩, ⟨_, rfl⟩, rfl, rfl, rfl⟩

/-- FramesLandInReverseOrder. -/
theorem witness_frames_land :
    [(0x01#8, 0x3C#8), (0x01#8, 0x81#8)].length = (blankChain 2).chips.length ∧
    (blankChain 2).chips[1]? = some blankChip := by decide

/-- ConfigureReachesEveryChip, RenderReachesEveryChip, NoOpConfigureChangesNoRegister, and both undefined addresses of
UndefinedAddressRefusesOnlyTheChain. -/
theorem witness_reaches_every_chip :
    base.cfg.wf = true ∧ base.accepting = true ∧
    (∀ r : BitVec 3, (fileSlot (chipAddress base.cfg (.digit r))).isSome = true) ∧
    (∀ r r' : BitVec 3, chipAddress base.cfg (.digit r) = chipAddress base.cfg (.digit r') → r = r') ∧
    base.chain = some (blankChain 1) ∧ (blankChain 1).chips.length = base.cfg.chainLen ∧
    ((0x1B#8).extractLsb' 0 4 ≠ 0x0#4 ∧ (0x1C#8).extractLsb' 0 4 ≠ 0xD#4 ∧ (0x0F#8).extractLsb' 0 4 ≠ 0xE#4) ∧
    addressByte base.cfg .scanLimit = 0x0B#8 ∧
    (0x10#8).extractLsb' 0 4 = 0x0#4 ∧ (0x0D#8).extractLsb' 0 4 = 0xD#4 ∧ (0xFE#8).extractLsb' 0 4 = 0xE#4 := by
  decide +kernel

/-- StartupThenRenderShowsPixelBuffer, with another order than R263's. -/
theorem witness_startup :
    base.cfg.wf = true ∧ base.accepting = true ∧ addressesApart base.cfg = true ∧ base.chain = some (blankChain 1) ∧
    (blankChain 1).chips.length = base.cfg.chainLen ∧
    (startup base.cfg.regAddr).reverse.Perm (startup base.cfg.regAddr) :=
  ⟨by decide +kernel, by decide +kernel, by decide, rfl, rfl, List.reverse_perm _⟩

/-- StartupThenRenderShowsPixelBuffer, each clause of the visible pixel at its bound. -/
theorem witness_visible_pixel :
    (let c := chipWith [(0xF#4, 0xFF#8), (0xC#4, 0x01#8), (0xB#4, 0xFA#8), (0x9#4, 0x04#8)];
      c.named Config.standard .displayTest = some 0xFF#8 ∧ c.named Config.standard .shutdown = some 0x01#8 ∧
        c.named Config.standard .scanLimit = some 0xFA#8 ∧ c.named Config.standard .decodeMode = some 0x04#8 ∧
        c.named Config.standard (.digit 2#3) = some 0x00#8) ∧
    (0xFF#8).getLsbD 0 = true ∧ (0xFE#8).getLsbD 0 = false ∧
    ((0xFA#8).extractLsb' 0 3).toNat < (3#3).toNat ∧ (2#3).toNat ≤ ((0xFA#8).extractLsb' 0 3).toNat ∧
    (0x04#8).getLsbD (2#3).toNat = true ∧ (0x04#8).getLsbD (1#3).toNat = false := by decide

/-- UndefinedAddressRefusesOnlyTheChain, the chain once refused. -/
theorem witness_refused_chain :
    { base with chain := none }.chain = none ∧ ∃ t, step { base with chain := none } = .next t :=
  ⟨rfl, _, rfl⟩

/-- StandAloneFrameWritesItsRegister, StandAloneNoOpChangesNothing, StandAloneFrameStops and StandAloneFrameAgreesWithLatch
(with a defined address and an undefined one). -/
theorem witness_stand_alone_frame :
    base.cfg.wf = true ∧ base.chain = some (blankChain 1) ∧ (blankChain 1).chips[base.latchPos]? = some blankChip ∧
    (Instr.wTest 0xF#4 0x01#8, DisplayReg.displayTest) ∈ frameRows 0xF#4 0x01#8 ∧
    { base with chain := none }.chain = none ∧
    (blankChain 1).chips.length ≤ { base with latchPos := 1 }.latchPos ∧
    { blankChip with sr := 0x0D00#16 }.latch = none ∧ { blankChip with sr := 0x0100#16 }.latch.isSome = true := by
  decide +kernel

/-- WireFramesChangeOneChip. -/
theorem witness_wire_frame :
    isCommand (.wDigit7 0#4 0xFF#8) = false ∧ ∃ t, exec (.wDigit7 0#4 0xFF#8) base = .next t :=
  ⟨by decide, _, rfl⟩

/-- DirectionLock: both axes, at the thresholds. -/
theorem witness_direction_lock :
    base.cfg.joy = Config.standard.joy ∧ base.dir.axis = .horizontal ∧ { base with dir := .up }.dir.axis = .vertical ∧
    (399#10).toNat < 400 ∧ 600 < (601#10).toNat ∧ (400 ≤ (400#10).toNat ∧ (400#10).toNat ≤ 600) ∧
    (400 ≤ (600#10).toNat ∧ (600#10).toNat ≤ 600) := by decide

/-- TickNeverReverses, TickChangesNoOtherByte (not eating, and eating). -/
theorem witness_tick_next :
    (∃ t, exec (.tick 0#10 1023#10) base = .next t) ∧ tickHead 0#10 1023#10 base ≠ base.food.toCell ∧
    (∃ t, exec (.tick 512#10 512#10) fed = .next t) ∧ tickHead 512#10 512#10 fed = fed.food.toCell :=
  ⟨⟨_, rfl⟩, by decide +kernel, ⟨_, rfl⟩, by decide +kernel⟩

/-- TorusClosure and MovesFollowTheTorus: a cell inside its module and one at either side of it. -/
theorem witness_cells :
    (⟨4#3, 0, 0x04#8⟩ : Cell).valid 1 = true ∧ (⟨0#3, 3, 0x01#8⟩ : Cell).valid 4 = true ∧
    (⟨7#3, 0, 0x80#8⟩ : Cell).valid 4 = true ∧ 0 < 31 ∧ 31 < 8 * 4 := by decide

/-- FoodDrawLaw: a draw with an answer, a free cell, and a draw without one. -/
theorem witness_food_draw :
    (drawFreeCell 1 [⟨0#3, 0, 0x01#8⟩] [⟨0#3, 0, 0#3⟩, ⟨2#3, 0, 5#3⟩] 0).map (·.cell) = some ⟨2#3, 0, 5#3⟩ ∧
    (⟨2#3, 0, 5#3⟩ : GridCell).toCell ∉ ([⟨0#3, 0, 0x01#8⟩] : List Cell) ∧
    drawFreeCell 1 ((gridCells 1).map GridCell.toCell) [⟨0#3, 0, 0#3⟩] 0 = none := by decide +kernel

/-- PixelPrimitivesChangeOneBit. -/
theorem witness_pixels : base.pix.wf = true := by decide +kernel

/-- TickMovesTheSnake: a plain move, one into the cell being vacated, and one that rolls over. -/
theorem witness_tick_moves :
    (LegalState base ∧ base.tickRuns = true ∧ tickHead 512#10 512#10 base ≠ base.food.toCell ∧
      tickHead 512#10 512#10 base ∉ base.window.tail) ∧
    (LegalState p4 ∧ p4.tickRuns = true ∧ tickHead 0#10 512#10 p4 ≠ p4.food.toCell ∧
      tickHead 0#10 512#10 p4 ∉ p4.window.tail) ∧
    (let s := k14 ⟨0#3, 3, 0#3⟩ [(3, 0x01#8), (16, 0x07#8)] [];
      LegalState s ∧ s.tickRuns = true ∧ tickHead 512#10 512#10 s ≠ s.food.toCell ∧
        tickHead 512#10 512#10 s ∉ s.window.tail ∧ s.stepper = s.cfg.cap - 1) :=
  ⟨⟨base_legal, by decide +kernel⟩, ⟨p4_legal, by decide +kernel⟩, k14_legal, by decide +kernel⟩

/-- TickEatsAndGrows: with the increment, and with the rollover. -/
theorem witness_tick_eats :
    (LegalState fed ∧ (fed.tickRuns = true ∧ tickHead 512#10 512#10 fed = fed.food.toCell ∧
      fed.length + 1 < fed.cfg.cap) ∧
      ∃ g : GridCell, g.valid fed.cfg.mc = true ∧ g.toCell ∉ fed.window ++ [tickHead 512#10 512#10 fed]) ∧
    (let s := k14 ⟨4#3, 1, 7#3⟩ [(16, 0x07#8), (17, 0x80#8)] [⟨6#3, 2, 2#3⟩];
      LegalState s ∧ (s.tickRuns = true ∧ tickHead 512#10 512#10 s = s.food.toCell ∧ s.length + 1 < s.cfg.cap ∧
        s.stepper = s.cfg.cap - 1) ∧
        ∃ g : GridCell, g.valid s.cfg.mc = true ∧ g.toCell ∉ s.window ++ [tickHead 512#10 512#10 s]) :=
  ⟨⟨fed_legal, by decide +kernel, ⟨2#3, 0, 5#3⟩, by decide +kernel⟩,
    k16_legal, by decide +kernel, ⟨6#3, 2, 2#3⟩, by decide +kernel⟩

/-- TickCollisionEndsTheGame. -/
theorem witness_tick_collides :
    LegalState p3 ∧ p3.tickRuns = true ∧ tickHead 512#10 0#10 p3 ∈ p3.window.tail :=
  ⟨p3_legal, by decide +kernel⟩

/-- TickInGameOverDoesNothing. -/
theorem witness_game_over :
    let s := { base with phase := .gameOver, port := [0x30000000#32] }
    s.cfg.wf = true ∧ s.phase = .gameOver ∧ leads 0x30000000#32 s (·.phase == .running) = true ∧
      (match exec .newGame s with
      | .next t => t.phase == .running
      | .fault _ => false
      | .refused _ => false) = true := by
  decide +kernel

/-- TickOverflowFaultsBeforeAnyWrite: `LENGTH + 1 = CAP`, and one less than it. -/
theorem witness_tick_overflow :
    (let s := s0 4 [⟨4#3, 0, 1#3⟩];
      s.tickRuns = true ∧ tickHead 512#10 512#10 s = s.food.toCell ∧ s.cfg.cap ≤ s.length + 1) ∧
    (let s := s0 5 [⟨4#3, 0, 1#3⟩];
      s.tickRuns = true ∧ tickHead 512#10 512#10 s = s.food.toCell ∧ ¬s.cfg.cap ≤ s.length + 1) ∧
    (match exec (.tick 512#10 512#10) (s0 4 [⟨4#3, 0, 1#3⟩]) with
      | .next t => t.fault == some .trailOverflow
      | .fault _ => false
      | .refused _ => false) = true := by decide +kernel

/-- TickHangsWithoutAFreeCell, NoFreeCellExactlyAtSaturation, LargeCapacityNeverOverflows, EatingNeverCollides,
TickOutcomesAreExclusive. -/
theorem witness_saturated :
    LegalState (saturated 65) ∧
    ((saturated 65).tickRuns = true ∧ (saturated 65).hung = false ∧ (saturated 65).fault = none ∧
      tickHead 512#10 512#10 (saturated 65) = (saturated 65).food.toCell ∧
      (saturated 65).length + 1 < (saturated 65).cfg.cap ∧ 64 * (saturated 65).cfg.mc + 1 ≤ (saturated 65).cfg.cap ∧
      (saturated 65).resetReq = none ∧ (saturated 65).latchDue = false) ∧
    (∀ g : GridCell, g.valid (saturated 65).cfg.mc = true →
      g.toCell ∈ (saturated 65).window ++ [tickHead 512#10 512#10 (saturated 65)]) ∧
    ∃ t, exec (.tick 512#10 512#10) (saturated 65) = .next t := by
  refine ⟨saturated_legal, by decide +kernel, fun g hg => ?_, _, rfl⟩
  have h : (gridCells 1).all (fun g => ((saturated 65).window ++ [tickHead 512#10 512#10 (saturated 65)]).contains g.toCell)
      = true := by decide +kernel
  simpa using List.all_eq_true.1 h g (mem_gridCells.2 hg)

/-- HungBlockAcceptsNothing. -/
theorem witness_hung :
    { base with hung := true }.hung = true ∧ base.resetReq = none ∧ ∃ t, step { base with hung := true } = .next t :=
  ⟨rfl, rfl, _, rfl⟩

/-- RolloverIsTheLoopOfTheRule. -/
theorem witness_rollover : base.trail.length = base.cfg.cap ∧ base.length < base.cfg.cap := by decide +kernel

/-- StepKeepsLegalState. -/
theorem witness_step_legal : LegalState base ∧ ∃ t, step { base with port := [0x40080200#32] } = .next t :=
  ⟨base_legal, _, rfl⟩

/-- PowerOnIsLegal and ResetValues. -/
theorem witness_power_on : (oneModule 4).wf = true ∧ Config.standard.wf = true ∧ 4 ≤ 4 := by decide

/-- ResetProcedure: from a hung and faulted state, with nothing presented, and within a CONFIGURE. -/
theorem witness_reset :
    (let s := { base with hung := true, fault := some .trailOverflow, resetReq := some 7 };
      s.cfg.wf = true ∧ s.resetReq = some 7 ∧ (7 = 0 ∨ s.hung = true ∨ s.port = [])) ∧
    (let s := { base with resetReq := some 25, port := [0x10000B07#32] };
      s.cfg.wf = true ∧ s.resetReq = some 25 ∧ 0 < 25 ∧ s.hung = false ∧ s.port = 0x10000B07#32 :: [] ∧
        ∃ r, exec (decodeCommand 0x10000B07#32) { s with port := [] } = .next r) :=
  ⟨by decide +kernel, by decide +kernel, rfl, by decide, by decide +kernel, rfl, _, rfl⟩

/-- PhaseAndNoticeChanges: the fifth tick of P3, and NEW_GAME. -/
theorem witness_phase :
    p3.phase = .running ∧
    (match exec (.tick 512#10 0#10) p3 with
      | .next t => t.phase == .gameOver && t.notices != p3.notices
      | .fault _ => false
      | .refused _ => false) = true ∧
    base.accepting = true ∧ ∃ t, exec .newGame base = .next t :=
  ⟨by decide +kernel, by decide +kernel, by decide +kernel, _, rfl⟩

end Sys2Proof.Tests
end

section
/-!
PROOFS. The memory family (spec/20_memory.md): what a command appends to the bus trace is what the chain sees (R61).
CONFIGURE and RENDER are runs of line writes; every other command leaves the bus and the chain alone.
-/

namespace Sys2Proof.Machine

/-- A TICK that runs leaves the configuration, the lines, the bus trace, the chain and the inputs but the random samples as
they are (R190). -/
theorem runTick_frame (h v : BitVec 10) (s : State) :
    (runTick h v s).cfg = s.cfg ∧ (runTick h v s).clk = s.clk ∧ (runTick h v s).load = s.load ∧
      (runTick h v s).din = s.din ∧ (runTick h v s).bus = s.bus ∧ (runTick h v s).chain = s.chain ∧
      (runTick h v s).port = s.port ∧ (runTick h v s).resetReq = s.resetReq ∧
      (runTick h v s).latchDue = s.latchDue ∧ (runTick h v s).latchPos = s.latchPos := by
  obtain ⟨-, e⟩ | ⟨-, -, e⟩ | ⟨-, -, -, e⟩ | ⟨-, -, -, e⟩ := runTick_cases h v s
  case inr.inr.inl =>
    obtain ⟨d, -, -, -, e'⟩ | ⟨-, e'⟩ := spawnFood_cases (tickKeep h v s ++ [tickHead h v s])
      (appendHead (tickHead h v s)) (eatFood { s with dir := tickDir h v s, head := tickHead h v s }) <;>
    simp [e, e']
  all_goals simp [e]

/-- A host command whose run always completes: it ran, or nothing changed where the block does not accept it (R231). -/
theorem hostCommand_runs {s t u : State} (e : hostCommand s (.next u) = .next t) :
    s.cfg.wf = true ∧ (s.accepting = true ∧ t = u ∨ s.accepting = false ∧ t = s) := by
  obtain ⟨hw, ⟨ha, hr⟩ | hs⟩ := hostCommand_next e
  · cases hr
    exact ⟨hw, .inl ⟨ha, rfl⟩⟩
  · exact ⟨hw, .inr hs⟩

/-- CONFIGURE that answers: its line writes, or nothing (R105, R231). -/
theorem execConfigure_next {reg val : Byte} {s t : State} (e : execConfigure reg val s = .next t) :
    s.cfg.wf = true ∧ (s.accepting = true ∧ t = emit (configureEvents s.cfg.mc reg val) s ∨
      s.accepting = false ∧ t = s) := by
  rw [← configure_eq_emit]
  exact hostCommand_runs e

/-- RENDER that answers: its line writes, or nothing (R110, R231). -/
theorem execRender_next {s t : State} (e : execRender s = .next t) :
    s.cfg.wf = true ∧ (s.accepting = true ∧ t = emit (renderEvents s.cfg s.pix) s ∨
      s.accepting = false ∧ t = s) := by
  rw [← render_eq_emit]
  exact hostCommand_runs e

/-- NEW_GAME touches neither the bus trace nor the chain. -/
theorem execNewGame_silent {s t : State} (e : execNewGame s = .next t) : t.bus = s.bus ∧ t.chain = s.chain := by
  obtain ⟨-, ⟨-, rfl⟩ | ⟨-, rfl⟩⟩ := hostCommand_runs e
  · simp [startGame_frame]
  · exact ⟨rfl, rfl⟩

/-- TICK touches neither the bus trace nor the chain. -/
theorem execTick_silent {h v : BitVec 10} {s t : State} (e : execTick h v s = .next t) :
    t.bus = s.bus ∧ t.chain = s.chain := by
  obtain ⟨-, ⟨rfl, -⟩ | ⟨-, -, -, rfl⟩ | ⟨-, -, rfl⟩⟩ := execTick_next e
  · exact ⟨rfl, rfl⟩
  · simp [runTick_frame]
  · exact ⟨rfl, rfl⟩

/-- An ILLEGAL word touches neither the bus trace nor the chain. -/
theorem execIllegal_silent {w : BitVec 32} {s t : State} (e : execIllegal w s = .next t) :
    t.bus = s.bus ∧ t.chain = s.chain := by
  obtain ⟨-, ⟨-, rfl⟩ | ⟨-, rfl⟩⟩ := hostCommand_runs e <;> exact ⟨rfl, rfl⟩

/-- From `s` to `t` the chain has seen exactly the events appended to the bus trace, in their order (R61). -/
def SawAppendedEvents (s t : State) : Prop :=
  ∃ es, t.bus = s.bus ++ es ∧ t.chain = watch s.chain es

theorem sawAppendedEvents_emit (es : List BusEvent) (s : State) : SawAppendedEvents s (emit es s) :=
  ⟨es, emit_bus es s, emit_chain es s⟩

theorem sawAppendedEvents_of_silent {s t : State} (h : t.bus = s.bus ∧ t.chain = s.chain) : SawAppendedEvents s t :=
  ⟨[], by simpa using h.1, h.2⟩

theorem execConfigure_sawAppendedEvents {reg val : Byte} {s t : State} (e : execConfigure reg val s = .next t) :
    SawAppendedEvents s t := by
  obtain ⟨-, ⟨-, rfl⟩ | ⟨-, rfl⟩⟩ := execConfigure_next e
  · exact sawAppendedEvents_emit _ s
  · exact sawAppendedEvents_of_silent ⟨rfl, rfl⟩

theorem execRender_sawAppendedEvents {s t : State} (e : execRender s = .next t) : SawAppendedEvents s t := by
  obtain ⟨-, ⟨-, rfl⟩ | ⟨-, rfl⟩⟩ := execRender_next e
  · exact sawAppendedEvents_emit _ s
  · exact sawAppendedEvents_of_silent ⟨rfl, rfl⟩

/-- Settles O19: CONFIGURE and RENDER are runs of line writes, which the chain sees one by one; the other commands write
no line. -/
theorem chainSeesWritesInBusOrder : Obligations.ChainSeesWritesInBusOrder := by
  intro i s t hi e
  cases i
  case configure => exact execConfigure_sawAppendedEvents e
  case render => exact execRender_sawAppendedEvents e
  case newGame => exact sawAppendedEvents_of_silent (execNewGame_silent e)
  case tick => exact sawAppendedEvents_of_silent (execTick_silent e)
  case illegal w => exact sawAppendedEvents_of_silent (execIllegal_silent (w := w) e)
  -- the wire frames are no commands
  all_goals cases hi

end Sys2Proof.Machine
end

section
/-!
PROOFS. The encoding family (spec/30_encoding.md): which words of the command port spell no command (R78).
-/

namespace Sys2Proof
open Sys2Proof.Machine Sys2Proof.Laws.TableRow

/-- Words with one field in common have its bits in common. -/
theorem getLsbD_of_field_eq {x y : BitVec 32} {i : Nat} (lo len : Nat) (e : x.extractLsb' lo len = y.extractLsb' lo len)
    (hlo : lo ≤ i) (hlen : i - lo < len) : x.getLsbD i = y.getLsbD i := by
  have bit : (x.extractLsb' lo len).getLsbD (i - lo) = (y.extractLsb' lo len).getLsbD (i - lo) := by rw [e]
  simpa [BitVec.getLsbD_extractLsb', hlo, hlen] using bit

/-- Words agree when their `OP`, the field right under it and the bits below that field do. -/
theorem eq_of_fields_eq {x y : BitVec 32} (lo n : Nat) (hn : lo + n = 28)
    (hop : x.extractLsb' 28 4 = y.extractLsb' 28 4) (hmid : x.extractLsb' lo n = y.extractLsb' lo n)
    (hlow : x.extractLsb' 0 lo = y.extractLsb' 0 lo) : x = y := by
  refine BitVec.eq_of_getLsbD_eq fun i hi => ?_
  obtain h | h | h : i < lo ∨ lo ≤ i ∧ i < 28 ∨ 28 ≤ i := by omega
  · exact getLsbD_of_field_eq 0 lo hlow (by omega) (by omega)
  · exact getLsbD_of_field_eq lo n hmid (by omega) (by omega)
  · exact getLsbD_of_field_eq 28 4 hop (by omega) (by omega)

/-- A row of a format (R71), whose must-be-zero field lies right under `OP` and whose other bits are free: a word belongs to
it exactly when its `OP` and its must-be-zero field are the row's. -/
theorem matches_iff_fields {r : OpRow 32} (w : BitVec 32) (lo n : Nat) (hn : lo + n = 28)
    (hop : r.mask.extractLsb' 28 4 = BitVec.allOnes 4) (hmbz : r.mask.extractLsb' lo n = BitVec.allOnes n)
    (hfree : r.mask.extractLsb' 0 lo = 0#lo) (hval : r.value.extractLsb' 0 lo = 0#lo) :
    r.matches w = true ↔
      w.extractLsb' 28 4 = r.value.extractLsb' 28 4 ∧ w.extractLsb' lo n = r.value.extractLsb' lo n := by
  refine ⟨fun h => ⟨field_of_matches 28 4 h hop, field_of_matches lo n h hmbz⟩, fun ⟨ho, hz⟩ => ?_⟩
  have e : w &&& r.mask = r.value := by
    apply eq_of_fields_eq lo n hn <;> rw [BitVec.extractLsb'_and]
    · rw [hop, BitVec.and_allOnes, ho]
    · rw [hmbz, BitVec.and_allOnes, hz]
    · rw [hfree, BitVec.and_zero, hval]
  simpa [OpRow.matches] using e

theorem rowConfigure_matches_iff (w : BitVec 32) :
    rowConfigure.matches w = true ↔ (w.extractLsb' 28 4).toNat = 1 ∧ w.extractLsb' 16 12 = 0#12 := by
  rw [matches_iff_fields w 16 12 rfl (by decide) (by decide) (by decide) (by decide), BitVec.toNat_eq]
  rfl

theorem rowRender_matches_iff (w : BitVec 32) :
    rowRender.matches w = true ↔ (w.extractLsb' 28 4).toNat = 2 ∧ w.extractLsb' 0 28 = 0#28 := by
  rw [matches_iff_fields w 0 28 rfl (by decide) (by decide) (by decide) (by decide), BitVec.toNat_eq]
  rfl

theorem rowNewGame_matches_iff (w : BitVec 32) :
    rowNewGame.matches w = true ↔ (w.extractLsb' 28 4).toNat = 3 ∧ w.extractLsb' 0 28 = 0#28 := by
  rw [matches_iff_fields w 0 28 rfl (by decide) (by decide) (by decide) (by decide), BitVec.toNat_eq]
  rfl

theorem rowTick_matches_iff (w : BitVec 32) :
    rowTick.matches w = true ↔ (w.extractLsb' 28 4).toNat = 4 ∧ w.extractLsb' 20 8 = 0#8 := by
  rw [matches_iff_fields w 20 8 rfl (by decide) (by decide) (by decide) (by decide), BitVec.toNat_eq]
  rfl

/-- A word decodes to ILLEGAL exactly when it lies in no row (R78). -/
theorem decodeCommand_eq_illegal_iff (w : BitVec 32) :
    decodeCommand w = .illegal w ↔ ¬rowConfigure.matches w = true ∧ ¬rowRender.matches w = true ∧
      ¬rowNewGame.matches w = true ∧ ¬rowTick.matches w = true := by
  rw [decodeCommand]
  split_ifs with hc hr hn ht <;> simp [*]

/-- R78: no row takes the word exactly when its `OP` is reserved or its row's must-be-zero field is not zero. -/
theorem decodeCommand_illegal_iff_reserved (w : BitVec 32) :
    ((w.extractLsb' 28 4).toNat = 0 ∨ 5 ≤ (w.extractLsb' 28 4).toNat ∨
      (w.extractLsb' 28 4).toNat = 1 ∧ w.extractLsb' 16 12 ≠ 0#12 ∨
      ((w.extractLsb' 28 4).toNat = 2 ∨ (w.extractLsb' 28 4).toNat = 3) ∧ w.extractLsb' 0 28 ≠ 0#28 ∨
      (w.extractLsb' 28 4).toNat = 4 ∧ w.extractLsb' 20 8 ≠ 0#8) ↔
    decodeCommand w = .illegal w := by
  rw [decodeCommand_eq_illegal_iff, rowConfigure_matches_iff, rowRender_matches_iff, rowNewGame_matches_iff,
    rowTick_matches_iff]
  generalize (w.extractLsb' 28 4).toNat = op
  match op with
  | 0 | 1 | 2 | 3 | 4 | _ + 5 => simp

/-- Settles O4: the four rows of the table give the reserved words, and ILLEGAL runs as one `raiseFault`. -/
theorem reservedWordsRaiseIllegalCommand : Obligations.ReservedWordsRaiseIllegalCommand :=
  ⟨decodeCommand_illegal_iff_reserved, (decodeCommand_illegal_iff_reserved _).1 (.inl rfl),
    fun w _ hw ha => execIllegal_eq w hw ha⟩

end Sys2Proof
end

section
/-!
PROOFS. The driver family (spec/40_driver.md): the line writes of the bus primitives (R101 to R104), CONFIGURE and RENDER as
whole latch frames (R105, R108, R110), and a block that learns nothing of the chain (R107).
-/

namespace Sys2Proof.Machine

/-! ### Bits and wire frames -/

theorem length_flatMap_bitEvents (bits : List Bool) : (bits.flatMap bitEvents).length = 3 * bits.length := by
  induction bits with
  | nil => rfl
  | cons b bits ih =>
    rw [List.flatMap_cons, List.length_append, ih, List.length_cons, Nat.mul_add_one, Nat.add_comm]
    rfl

/-- Each bit makes one CLK 1 write (R101). -/
theorem count_clkHigh_flatMap_bitEvents (bits : List Bool) :
    (bits.flatMap bitEvents).count ⟨.clk, true⟩ = bits.length := by
  induction bits with
  | nil => rfl
  | cons b bits ih => simp [bitEvents, ih]

/-- The bits of a wire frame, as they are sent (R103). -/
theorem length_frameBits (a d : Byte) : (bitsMsbFirst a ++ bitsMsbFirst d).length = 16 := rfl

theorem frameEvents_length (a d : Byte) : (frameEvents a d).length = 48 := by
  rw [frameEvents_eq, length_flatMap_bitEvents, length_frameBits]

theorem frameEvents_count_clkHigh (a d : Byte) : (frameEvents a d).count ⟨.clk, true⟩ = 16 := by
  rw [frameEvents_eq, count_clkHigh_flatMap_bitEvents, length_frameBits]

/-- Settles O10: `sendBit` is by definition its three writes, the last of DIN and of CLK being what those lines keep. -/
theorem sendBitWritesClockDataClock : Obligations.SendBitWritesClockDataClock := fun b s =>
  ⟨sendBit_eq_emit b s, by rw [sendBit_eq_emit, emit_bus]; rfl, rfl, rfl, rfl⟩

/-- Settles O11: the events of a wire frame are 16 bits of three writes each. -/
theorem wireFrameIsSentMsbFirst : Obligations.WireFrameIsSentMsbFirst := fun a d s =>
  ⟨frameEvents a d, sendFrame_eq_emit a d s, by rw [sendFrame_eq_emit, emit_bus], frameEvents_length a d,
    frameEvents_count_clkHigh a d, rfl⟩

/-! ### Latch frames, and what CONFIGURE and RENDER leave on the lines -/

/-- A latch frame ends with LOAD at 1 (R104). -/
theorem latchFrame_load (fs : List (Byte × Byte)) (s : State) : (latchFrame fs s).load = true := rfl

/-- A latch frame that carries a wire frame ends with CLK at 1. -/
theorem latchFrame_concat_clk (fs : List (Byte × Byte)) (f : Byte × Byte) (s : State) :
    (latchFrame (fs ++ [f]) s).clk = true := by
  rw [latchFrame, List.foldl_concat]
  rfl

/-- A latch frame leaves DIN at the last bit sent, bit 0 of the last data byte. -/
theorem latchFrame_concat_din (fs : List (Byte × Byte)) (f : Byte × Byte) (s : State) :
    (latchFrame (fs ++ [f]) s).din = f.2.getLsbD 0 := by
  rw [latchFrame, List.foldl_concat]
  rfl

/-- A run of line writes, the lines written as what they are afterwards. -/
theorem emit_eq_of_lines {es : List BusEvent} {s : State} {clk load din : Level} (hclk : (emit es s).clk = clk)
    (hload : (emit es s).load = load) (hdin : (emit es s).din = din) :
    emit es s =
      { s with clk := clk, load := load, din := din, bus := s.bus ++ es, chain := watch s.chain es } := by
  subst hclk hload hdin
  rw [emit_eq]

theorem mc_pos_of_wf {cfg : Config} (h : cfg.wf = true) : 0 < cfg.mc := by
  simp only [Config.wf, Bool.and_eq_true, decide_eq_true_eq] at h
  obtain ⟨⟨⟨⟨⟨hmc, -⟩, -⟩, -⟩, -⟩, -⟩ := h
  exact hmc

/-- The last wire frame of a CONFIGURE carries the pair, as every one does (R105). -/
theorem configureFrames_eq_concat {cfg : Config} (reg val : Byte) (hmc : 0 < cfg.mc) :
    configureFrames cfg reg val = List.replicate (cfg.mc - 1) (reg, val) ++ [(reg, val)] := by
  rw [configureFrames, ← List.replicate_succ', Nat.sub_add_cancel hmc]

/-- Counting down from `MC - 1` ends at 0. -/
theorem reverse_range_eq_concat {n : Nat} (hn : 0 < n) : ∃ ms, (List.range n).reverse = ms ++ [0] := by
  obtain ⟨k, rfl⟩ := Nat.exists_eq_succ_of_ne_zero hn.ne'
  rw [List.range_succ_eq_map, List.reverse_cons]
  exact ⟨_, rfl⟩

/-- The last wire frame of a row is module 0's (R112). -/
theorem rowFrames_eq_concat {cfg : Config} (pix : Memory) (r : BitVec 3) (hmc : 0 < cfg.mc) :
    ∃ fs, rowFrames cfg pix r = fs ++ [(rowAddress cfg r, readPix cfg.mc pix r 0)] := by
  obtain ⟨ms, hms⟩ := reverse_range_eq_concat hmc
  rw [rowFrames, hms, List.map_append]
  exact ⟨_, rfl⟩

/-- The whole effect of an accepted CONFIGURE (R105). -/
theorem emit_configureEvents_eq {s : State} (reg val : Byte) (hw : s.cfg.wf = true) :
    emit (configureEvents s.cfg.mc reg val) s =
      { s with
        clk := true
        load := true
        din := val.getLsbD 0
        bus := s.bus ++ configureEvents s.cfg.mc reg val
        chain := watch s.chain (configureEvents s.cfg.mc reg val) } := by
  apply emit_eq_of_lines <;> rw [← configure_eq_emit, configureFrames_eq_concat reg val (mc_pos_of_wf hw)]
  · exact latchFrame_concat_clk _ _ s
  · exact latchFrame_load _ s
  · exact latchFrame_concat_din _ _ s

/-- A row's latch frame leaves the configuration and the Pixel Buffer it reads as they are (R114). -/
theorem foldl_renderRow_reads (rs : List (BitVec 3)) (s : State) :
    (rs.foldl renderRow s).cfg = s.cfg ∧ (rs.foldl renderRow s).pix = s.pix := by
  induction rs generalizing s with
  | nil => exact ⟨rfl, rfl⟩
  | cons r rs ih =>
    obtain ⟨hcfg, hpix⟩ := ih (renderRow s r)
    rw [List.foldl_cons, hcfg, hpix, renderRow, latchFrame_eq_emit, emit_cfg, emit_pix]
    exact ⟨rfl, rfl⟩

/-- A RENDER ends with the latch frame of row 7 (R111), whose last wire frame is module 0's. -/
theorem emit_renderEvents_eq_latchFrame {s : State} (hw : s.cfg.wf = true) :
    ∃ fs t, emit (renderEvents s.cfg s.pix) s =
      latchFrame (fs ++ [(rowAddress s.cfg 7#3, readPix s.cfg.mc s.pix 7#3 0)]) t := by
  obtain ⟨hcfg, hpix⟩ := foldl_renderRow_reads [0#3, 1#3, 2#3, 3#3, 4#3, 5#3, 6#3] s
  obtain ⟨fs, hfs⟩ := rowFrames_eq_concat s.pix 7#3 (mc_pos_of_wf hw)
  refine ⟨fs, [0#3, 1#3, 2#3, 3#3, 4#3, 5#3, 6#3].foldl renderRow s, ?_⟩
  rw [← hfs, ← render_eq_emit, show rowOrder = [0#3, 1#3, 2#3, 3#3, 4#3, 5#3, 6#3] ++ [7#3] from rfl,
    List.foldl_concat, renderRow, hcfg, hpix]

/-- The whole effect of an accepted RENDER (R110). -/
theorem emit_renderEvents_eq {s : State} (hw : s.cfg.wf = true) :
    emit (renderEvents s.cfg s.pix) s =
      { s with
        clk := true
        load := true
        din := (readPix s.cfg.mc s.pix 7#3 0).getLsbD 0
        bus := s.bus ++ renderEvents s.cfg s.pix
        chain := watch s.chain (renderEvents s.cfg s.pix) } := by
  obtain ⟨fs, t, hlast⟩ := emit_renderEvents_eq_latchFrame hw
  apply emit_eq_of_lines <;> rw [hlast]
  · exact latchFrame_concat_clk _ _ t
  · exact latchFrame_load _ t
  · exact latchFrame_concat_din _ _ t

/-- A faulted block does nothing (R231). -/
theorem hostCommand_faulted {s : State} {run : Result} (hw : s.cfg.wf = true) (hf : s.fault.isSome = true) :
    hostCommand s run = .next s :=
  hostCommand_ignored hw (by simp [State.accepting, Option.isNone_eq_false_iff.2 hf])

/-- Settles O12: an accepted CONFIGURE is the run of line writes of one latch frame. -/
theorem configureBroadcastsOneWrite : Obligations.ConfigureBroadcastsOneWrite := by
  refine fun reg val => ⟨rfl, fun s hw => ⟨fun hf => hostCommand_faulted hw hf, fun ha => ?_⟩⟩
  exact (execConfigure_eq reg val hw ha).trans (congrArg _ (emit_configureEvents_eq reg val hw))

/-- Settles O14: an accepted RENDER is the run of line writes of eight latch frames, the last of which is row 7's. -/
theorem renderSendsPixelBuffer : Obligations.RenderSendsPixelBuffer := by
  refine ⟨rfl, fun s hw => ⟨fun hf => hostCommand_faulted hw hf, fun ha => ?_⟩⟩
  exact (execRender_eq hw ha).trans (congrArg _ (emit_renderEvents_eq hw))

/-! ### Whole latch frames only (R108) -/

/-- From `s` to `t` no line is written: the levels and the bus trace are as they were. -/
def WritesNoLine (s t : State) : Prop :=
  t.clk = s.clk ∧ t.load = s.load ∧ t.din = s.din ∧ t.bus = s.bus

theorem writesNoLine_refl (s : State) : WritesNoLine s s := ⟨rfl, rfl, rfl, rfl⟩

theorem execNewGame_writesNoLine {s t : State} (e : execNewGame s = .next t) : WritesNoLine s t := by
  obtain ⟨-, ⟨-, rfl⟩ | ⟨-, rfl⟩⟩ := hostCommand_runs e
  · simp [WritesNoLine, startGame_frame]
  · exact writesNoLine_refl t

theorem execTick_writesNoLine {h v : BitVec 10} {s t : State} (e : execTick h v s = .next t) : WritesNoLine s t := by
  obtain ⟨-, ⟨rfl, -⟩ | ⟨-, -, -, rfl⟩ | ⟨-, -, rfl⟩⟩ := execTick_next e
  · exact writesNoLine_refl t
  · simp [WritesNoLine, runTick_frame]
  · exact writesNoLine_refl s

theorem execIllegal_writesNoLine {w : BitVec 32} {s t : State} (e : execIllegal w s = .next t) : WritesNoLine s t := by
  obtain ⟨-, ⟨-, rfl⟩ | ⟨-, rfl⟩⟩ := hostCommand_runs e <;> exact writesNoLine_refl _

theorem atLatchedChip_writesNoLine {s t : State} {act : Chip → Chip} (e : atLatchedChip s act = .next t) :
    WritesNoLine s t := by
  obtain ⟨-, c, chip, -, -, rfl⟩ := atLatchedChip_next e
  exact writesNoLine_refl s

/-- Only CONFIGURE and RENDER write lines (R100). -/
theorem exec_writesNoLine {i : Instr} {s t : State} (hc : ∀ reg val, i ≠ .configure reg val) (hr : i ≠ .render)
    (e : exec i s = .next t) : WritesNoLine s t := by
  cases i
  case configure reg val => exact absurd rfl (hc reg val)
  case render => exact absurd rfl hr
  case newGame => exact execNewGame_writesNoLine e
  case tick => exact execTick_writesNoLine e
  case illegal w => exact execIllegal_writesNoLine (w := w) e
  case wReservedD => cases e
  case wReservedE => cases e
  -- every other wire frame is one `atLatchedChip`
  all_goals exact atLatchedChip_writesNoLine e

/-- From `s` to `t` the lines are written in the latch frames `groups` and in nothing else (R108). -/
def WritesGroups (groups : List (List (Byte × Byte))) (s t : State) : Prop :=
  t.bus = s.bus ++ groups.flatMap latchEvents ∧ (∀ g ∈ groups, g.length = s.cfg.mc) ∧
    (groups ≠ [] → t.load = true) ∧ (groups = [] → t.clk = s.clk ∧ t.load = s.load ∧ t.din = s.din)

theorem writesGroups_nil {s t : State} (h : WritesNoLine s t) : WritesGroups [] s t := by
  obtain ⟨hclk, hload, hdin, hbus⟩ := h
  exact ⟨by simpa using hbus, by simp, by simp, fun _ => ⟨hclk, hload, hdin⟩⟩

/-- CONFIGURE writes one latch frame, or nothing. -/
theorem execConfigure_writesGroups {reg val : Byte} {s t : State} (e : execConfigure reg val s = .next t) :
    ∃ groups, WritesGroups groups s t := by
  obtain ⟨hw, ⟨-, rfl⟩ | ⟨-, rfl⟩⟩ := execConfigure_next e
  · refine ⟨[configureFrames s.cfg reg val], ?_, ?_, fun _ => ?_, nofun⟩
    · rw [emit_bus, List.flatMap_singleton]
      rfl
    · simp [configureFrames]
    · rw [emit_configureEvents_eq reg val hw]
  · exact ⟨[], writesGroups_nil (writesNoLine_refl t)⟩

/-- RENDER writes one latch frame for every row, or nothing. -/
theorem execRender_writesGroups {s t : State} (e : execRender s = .next t) : ∃ groups, WritesGroups groups s t := by
  obtain ⟨hw, ⟨-, rfl⟩ | ⟨-, rfl⟩⟩ := execRender_next e
  · refine ⟨rowOrder.map (rowFrames s.cfg s.pix), ?_, ?_, fun _ => ?_, nofun⟩
    · rw [emit_bus, List.flatMap_map]
      rfl
    · simp [rowFrames]
    · rw [emit_renderEvents_eq hw]
  · exact ⟨[], writesGroups_nil (writesNoLine_refl t)⟩

/-- Settles O17: CONFIGURE and RENDER are runs of whole latch frames, and no other instruction writes a line. -/
theorem linesAreWrittenInWholeLatchFrames : Obligations.LinesAreWrittenInWholeLatchFrames := by
  intro i s t e
  by_cases hc : ∃ reg val, i = .configure reg val
  · obtain ⟨reg, val, rfl⟩ := hc
    obtain ⟨groups, hbus, hlen, hload, hkeep⟩ := execConfigure_writesGroups e
    exact ⟨groups, hbus, hlen, fun hne => ⟨hload hne, .inr ⟨reg, val, rfl⟩⟩, hkeep⟩
  by_cases hr : i = .render
  · subst hr
    obtain ⟨groups, hbus, hlen, hload, hkeep⟩ := execRender_writesGroups e
    exact ⟨groups, hbus, hlen, fun hne => ⟨hload hne, .inl rfl⟩, hkeep⟩
  · have hn := exec_writesNoLine (fun reg val h => hc ⟨reg, val, h⟩) hr e
    obtain ⟨hbus, hlen, -, hkeep⟩ := writesGroups_nil hn
    exact ⟨[], hbus, hlen, nofun, hkeep⟩

/-! ### A block that learns nothing of the chain (R107) -/

/-- The state with another chain on its lines. -/
def State.withChain (s : State) (c : Option Chain) : State := { s with chain := c }

/-- Two results differ in nothing but the chain of their next states. -/
inductive SameButChain : Result → Result → Prop where
  | next (t : State) (c : Option Chain) : SameButChain (.next t) (.next (t.withChain c))
  | fault (f : Fault) : SameButChain (.fault f) (.fault f)
  | refused (r : Refusal) : SameButChain (.refused r) (.refused r)

/-- The check that opens a command does not look at the chain. -/
theorem hostCommand_sameButChain {s : State} {c : Option Chain} {run run' : Result} (h : SameButChain run run') :
    SameButChain (hostCommand s run) (hostCommand (s.withChain c) run') := by
  cases hw : s.cfg.wf with
  | false =>
    rw [hostCommand_illFormed hw, hostCommand_illFormed (s := s.withChain c) hw]
    exact .refused _
  | true =>
    cases ha : s.accepting with
    | false =>
      rw [hostCommand_ignored hw ha, hostCommand_ignored (s := s.withChain c) hw ha]
      exact .next s c
    | true => rwa [hostCommand_accepting hw ha, hostCommand_accepting (s := s.withChain c) hw ha]

theorem lineWrite_withChain (l : Line) (b : Level) (s : State) (c : Option Chain) :
    lineWrite l b (s.withChain c) = (lineWrite l b s).withChain (c.bind (·.see ⟨l, b⟩)) := by
  cases l <;> rfl

/-- Line writes leave the same block over every chain. -/
theorem emit_withChain (es : List BusEvent) (s : State) (c : Option Chain) :
    emit es (s.withChain c) = (emit es s).withChain (watch c es) := by
  induction es generalizing s c with
  | nil => rfl
  | cons e es ih => rw [emit_cons, lineWrite_withChain, ih, emit_cons, watch_cons]

/-- A spawn does not look at the chain, where what follows it does not. -/
theorem spawnFood_withChain (X : List Cell) {k : State → State} (s : State) (c : Option Chain)
    (hk : ∀ t : State, k (t.withChain c) = (k t).withChain c) :
    spawnFood X k (s.withChain c) = (spawnFood X k s).withChain c := by
  have hd : drawFood X (s.withChain c) = drawFood X s := rfl
  rw [spawnFood, spawnFood, hd]
  cases drawFood X s with
  | some d => exact hk (placeFood d s)
  | none => rfl

theorem startGame_withChain (s : State) (c : Option Chain) :
    startGame (s.withChain c) = (startGame s).withChain c :=
  spawnFood_withChain s.cfg.initTrail (freshGame s) c fun _ => rfl

theorem advanceStepper_withChain (s : State) (c : Option Chain) :
    advanceStepper (s.withChain c) = (advanceStepper s).withChain c := by
  rw [advanceStepper, advanceStepper]
  by_cases hlast : s.stepper = s.cfg.cap - 1
  · rw [if_pos hlast]
    exact if_pos hlast
  · rw [if_neg hlast]
    exact if_neg hlast

theorem appendHead_withChain (h2 : Cell) (s : State) (c : Option Chain) :
    appendHead h2 (s.withChain c) = (appendHead h2 s).withChain c :=
  advanceStepper_withChain (pixSet h2 { s with trail := s.trail.set s.stepper h2 }) c

/-- A tick's course and effect do not depend on the chain. -/
theorem runTick_withChain (h v : BitVec 10) (s : State) (c : Option Chain) :
    runTick h v (s.withChain c) = (runTick h v s).withChain c := by
  have hover : tickOverflows h v (s.withChain c) = tickOverflows h v s := rfl
  have hcoll : tickCollides h v (s.withChain c) = tickCollides h v s := rfl
  have hate : tickAte h v (s.withChain c) = tickAte h v s := rfl
  rw [runTick, runTick, hover, hcoll, hate]
  split_ifs
  · rfl
  · rfl
  · exact spawnFood_withChain _ (eatFood { s with dir := tickDir h v s, head := tickHead h v s }) c
      fun t => appendHead_withChain _ t c
  · exact appendHead_withChain _ (vacateTail { s with dir := tickDir h v s, head := tickHead h v s }) c

/-- The check of a tick's indices does not look at the chain. -/
theorem tickOutOfRange_sameButChain (h v : BitVec 10) (s : State) (c : Option Chain) :
    SameButChain (tickOutOfRange h v s) (tickOutOfRange h v (s.withChain c)) := by
  have hover : tickOverflows h v (s.withChain c) = tickOverflows h v s := rfl
  have hrange : trailInRange (s.withChain c) = trailInRange s := rfl
  rw [tickOutOfRange, tickOutOfRange, hover, hrange]
  split_ifs
  · exact .next _ c
  · exact .fault _
  · exact .fault _

theorem execConfigure_sameButChain (reg val : Byte) (s : State) (c : Option Chain) :
    SameButChain (execConfigure reg val s) (execConfigure reg val (s.withChain c)) := by
  refine hostCommand_sameButChain ?_
  rw [configure_eq_emit, configure_eq_emit, emit_withChain]
  exact .next _ _

theorem execRender_sameButChain (s : State) (c : Option Chain) :
    SameButChain (execRender s) (execRender (s.withChain c)) := by
  refine hostCommand_sameButChain ?_
  rw [render_eq_emit, render_eq_emit, emit_withChain]
  exact .next _ _

theorem execNewGame_sameButChain (s : State) (c : Option Chain) :
    SameButChain (execNewGame s) (execNewGame (s.withChain c)) := by
  refine hostCommand_sameButChain ?_
  rw [startGame_withChain]
  exact .next _ c

theorem execTick_sameButChain (h v : BitVec 10) (s : State) (c : Option Chain) :
    SameButChain (execTick h v s) (execTick h v (s.withChain c)) := by
  refine hostCommand_sameButChain ?_
  have hphase : (s.withChain c).phase = s.phase := rfl
  have hrange : trailInRange (s.withChain c) = trailInRange s := rfl
  have hpix : pixInRange h v (s.withChain c) = pixInRange h v s := rfl
  rw [hphase, hrange, hpix, runTick_withChain]
  cases s.phase with
  | gameOver => exact .next s c
  | running =>
    dsimp only
    split_ifs
    · exact .next _ c
    · exact tickOutOfRange_sameButChain h v s c

theorem execIllegal_sameButChain (w : BitVec 32) (s : State) (c : Option Chain) :
    SameButChain (execIllegal w s) (execIllegal w (s.withChain c)) :=
  hostCommand_sameButChain (.next (raiseFault .illegalCommand s) c)

/-- No command looks at the chain. -/
theorem exec_sameButChain {i : Instr} (s : State) (c : Option Chain) (hi : isCommand i = true) :
    SameButChain (exec i s) (exec i (s.withChain c)) := by
  cases i
  case configure reg val => exact execConfigure_sameButChain reg val s c
  case render => exact execRender_sameButChain s c
  case newGame => exact execNewGame_sameButChain s c
  case tick h v => exact execTick_sameButChain h v s c
  case illegal w => exact execIllegal_sameButChain w s c
  -- the wire frames are no commands
  all_goals cases hi

/-- Settles O20: no command looks at the chain, which only sees what is written. -/
theorem blockLearnsNothingOfTheChain : Obligations.BlockLearnsNothingOfTheChain := by
  intro i s c hi
  have h : SameButChain (exec i s) (exec i { s with chain := c }) := exec_sameButChain s c hi
  generalize exec i s = r, exec i { s with chain := c } = r' at h ⊢
  cases h <;> rfl

end Sys2Proof.Machine
end

section
/-!
PROOFS. The game family (spec/42_engine_game.md): the pixel primitives on one byte (R165, R166), the Pixel Buffer of a
new game, the free cell its food draw finds, and NEW_GAME (R169).
-/

namespace Sys2Proof.Machine

/-! ### The pixel primitives (R165, R166) -/

/-- Writing back the byte an index holds changes no byte. -/
theorem Memory.read_write_self {m : Memory} (a b : Nat) (h : m.wf = true) :
    (m.write a (m.read a)).read b = m.read b := by
  by_cases hb : b = a
  · rw [hb, Memory.read_write_same a _ h]
  · exact Memory.read_write_other _ hb

/-- ZERO has no column bit, so clearing it writes back what its byte holds (R164, R166). -/
theorem pixClearIn_zero (mc : Nat) (m : Memory) :
    pixClearIn mc Cell.zero m = m.write (pixIndex mc 0#3 0) (m.read (pixIndex mc 0#3 0)) :=
  congrArg (m.write _) BitVec.and_allOnes

/-- Settles O39: each primitive is one write at the cell's index, and the one for ZERO writes back what it read. -/
theorem pixelPrimitivesChangeOneBit : Obligations.PixelPrimitivesChangeOneBit := by
  refine fun c s hm => ⟨readPix_pixSet hm, readPix_pixClear hm, fun a ha => ?_, fun a => ?_, rfl, rfl⟩
  · exact ⟨Memory.read_write_other _ ha, Memory.read_write_other _ ha⟩
  · rw [pixClear_pix, pixClearIn_zero, Memory.read_write_self _ _ hm]

/-! ### The Pixel Buffer of a new game -/

/-- What R8 asks of `INIT_TRAIL`. -/
theorem initTrail_of_wf {cfg : Config} (h : cfg.wf = true) :
    cfg.initTrail.length = 3 ∧ cfg.initTrail.Nodup ∧ ∀ c ∈ cfg.initTrail, c.valid cfg.mc = true := by
  simp only [Config.wf, Bool.and_eq_true, decide_eq_true_eq, List.all_eq_true] at h
  obtain ⟨⟨⟨⟨⟨-, -⟩, hlen⟩, hnodup⟩, hvalid⟩, -⟩ := h
  exact ⟨hlen, hnodup, hvalid⟩

theorem wf_foldl_pixSetIn {mc : Nat} (cs : List Cell) {m : Memory} (hm : m.wf = true) :
    (cs.foldl (fun m c => pixSetIn mc c m) m).wf = true := by
  induction cs generalizing m with
  | nil => exact hm
  | cons c cs ih => exact ih (wf_pixSetIn c hm)

theorem inSpace_foldl_pixSetIn {mc : Nat} {cs : List Cell} {m : Memory} (hv : ∀ c ∈ cs, c.valid mc = true)
    (hm : ∀ p ∈ m, p.1 < 8 * mc) : ∀ p ∈ cs.foldl (fun m c => pixSetIn mc c m) m, p.1 < 8 * mc := by
  induction cs generalizing m with
  | nil => exact hm
  | cons c cs ih =>
    obtain ⟨hc, hcs⟩ := List.forall_mem_cons.1 hv
    exact ih hcs (inSpace_pixSetIn hm (Cell.module_lt hc))

/-- Setting cells one after the other lights exactly these, besides what was lit (R165). -/
theorem lit_foldl_pixSetIn {mc : Nat} {cs : List Cell} {m : Memory} {c : Cell} (hv : ∀ c ∈ cs, c.valid mc = true)
    (hm : m.wf = true) (hc : c.valid mc = true) :
    lit mc (cs.foldl (fun m c => pixSetIn mc c m) m) c = true ↔ c ∈ cs ∨ lit mc m c = true := by
  induction cs generalizing m with
  | nil => simp
  | cons d cs ih =>
    obtain ⟨hd, hcs⟩ := List.forall_mem_cons.1 hv
    rw [List.foldl_cons, ih hcs (wf_pixSetIn d hm), lit_pixSetIn hm hd hc, List.mem_cons, or_assoc, or_left_comm]

theorem wf_initialPix (cfg : Config) : (initialPix cfg).wf = true :=
  wf_foldl_pixSetIn cfg.initTrail rfl

theorem inSpace_initialPix {cfg : Config} (hw : cfg.wf = true) : ∀ p ∈ initialPix cfg, p.1 < 8 * cfg.mc := by
  obtain ⟨-, -, hvalid⟩ := initTrail_of_wf hw
  exact inSpace_foldl_pixSetIn hvalid (by simp)

/-- Before its food, a new game lights exactly the initial cells (R169). -/
theorem lit_initialPix {cfg : Config} {c : Cell} (hw : cfg.wf = true) (hc : c.valid cfg.mc = true) :
    lit cfg.mc (initialPix cfg) c = true ↔ c ∈ cfg.initTrail := by
  obtain ⟨-, -, hvalid⟩ := initTrail_of_wf hw
  have hclear : lit cfg.mc [] c = false := by simp [lit, readPix, Memory.read, unlistedByte]
  rw [initialPix, lit_foldl_pixSetIn hvalid rfl hc, hclear]
  simp

theorem initialTrail_eq {cfg : Config} (hw : cfg.wf = true) :
    initialTrail cfg = cfg.initTrail ++ List.replicate (cfg.cap - 3) Cell.zero := by
  obtain ⟨hlen, -, -⟩ := initTrail_of_wf hw
  rw [initialTrail, hlen]

/-! ### The draw of a new game always has an answer (R169) -/

theorem shift_columnBit_inj : ∀ j k : BitVec 3, (0x01#8 : Byte) <<< j.toNat = 0x01#8 <<< k.toNat → j = k := by
  decide

/-- Two cells of the grid have different mask forms (R162). -/
theorem toCell_injective : Function.Injective GridCell.toCell := by
  intro ⟨r, m, k⟩ ⟨r', m', k'⟩ e
  simp only [GridCell.toCell, Cell.mk.injEq] at e
  obtain ⟨rfl, rfl, hk⟩ := e
  rw [shift_columnBit_inj k k' hk]

theorem gridCells_length (mc : Nat) : (gridCells mc).length = 64 * mc := by
  simp [gridCells, rows, cols, List.length_flatMap]
  omega

theorem bitVec3_ofNat_inj {i j : Nat} (hi : i < 8) (hj : j < 8) (e : BitVec.ofNat 3 i = BitVec.ofNat 3 j) : i = j := by
  have h := congrArg BitVec.toNat e
  simpa [Nat.mod_eq_of_lt, hi, hj] using h

theorem gridCells_nodup (mc : Nat) : (gridCells mc).Nodup := by
  refine List.nodup_flatMap.2 ⟨fun r _ => List.nodup_flatMap.2 ⟨fun m _ => ?_, ?_⟩, ?_⟩
  · -- one row of one module: the columns differ
    refine List.nodup_range.map_on fun i hi j hj e => ?_
    exact bitVec3_ofNat_inj (List.mem_range.1 hi) (List.mem_range.1 hj) (congrArg GridCell.col e)
  · -- one row: the modules differ
    refine List.nodup_range.pairwise_of_forall_ne fun m _ m' _ hne g hg hg' => hne ?_
    obtain ⟨_, -, rfl⟩ := List.mem_map.1 hg
    obtain ⟨_, -, e⟩ := List.mem_map.1 hg'
    exact (congrArg GridCell.module e).symm
  · -- the rows differ
    refine List.nodup_range.pairwise_of_forall_ne fun r hr r' hr' hne g hg hg' => hne ?_
    simp only [List.mem_flatMap, List.mem_map] at hg hg'
    obtain ⟨_, -, _, -, rfl⟩ := hg
    obtain ⟨_, -, _, -, e⟩ := hg'
    exact bitVec3_ofNat_inj (List.mem_range.1 hr) (List.mem_range.1 hr') (congrArg GridCell.row e).symm

/-- The grid has `64 * MC` cells, so fewer cells leave one free (R7). -/
theorem exists_free_of_length_lt {mc : Nat} {X : List Cell} (h : X.length < 64 * mc) :
    ∃ g : GridCell, g.valid mc = true ∧ g.toCell ∉ X := by
  by_contra hall
  push Not at hall
  have hsub : (gridCells mc).map GridCell.toCell ⊆ X := fun c hc => by
    obtain ⟨g, hg, rfl⟩ := List.mem_map.1 hc
    exact hall g (mem_gridCells.1 hg)
  have hle := (List.subperm_of_subset ((gridCells_nodup mc).map toCell_injective) hsub).length_le
  rw [List.length_map, gridCells_length] at hle
  omega

/-- Setting up a game never hangs: `64 * MC ≥ 64 > 3` cells exist, so the draw finds a free one and its food is placed on
the fresh game (R169). -/
theorem startGame_eq_placeFood {s : State} (hw : s.cfg.wf = true) :
    ∃ d : Draw, d.cell.valid s.cfg.mc = true ∧ d.cell.toCell ∉ s.cfg.initTrail ∧
      startGame s = placeFood d (freshGame s) := by
  obtain ⟨d, -, hvalid, hfree, e⟩ | ⟨hfull, -⟩ := spawnFood_cases s.cfg.initTrail id (freshGame s)
  · exact ⟨d, hvalid, hfree, e⟩
  · have hmc := mc_pos_of_wf hw
    obtain ⟨hlen, -, -⟩ := initTrail_of_wf hw
    obtain ⟨g, hg, hn⟩ := exists_free_of_length_lt (mc := s.cfg.mc) (X := s.cfg.initTrail) (by omega)
    exact absurd (hfull g hg) hn

/-! ### NEW_GAME -/

/-- The state of a fresh game with its food, field by field (R169). -/
theorem placeFood_freshGame_eq {s : State} (d : Draw) (hw : s.cfg.wf = true) :
    placeFood d (freshGame s) =
      { s with
        trail := s.cfg.initTrail ++ List.replicate (s.cfg.cap - 3) Cell.zero
        pix := pixSetIn s.cfg.mc d.cell.toCell (initialPix s.cfg)
        length := 3
        stepper := 3
        head := initialHead s.cfg
        dir := s.cfg.initDir
        phase := .running
        food := d.cell
        draws := d.draws
        drawCount := d.drawCount } := by
  rw [← initialTrail_eq hw]
  rfl

/-- Settles O41: the draw of an accepted NEW_GAME finds a free cell, whose pixel is lit besides the initial cells. -/
theorem newGameStartsAFreshGame : Obligations.NewGameStartsAFreshGame := by
  refine ⟨rfl, fun s hw => ⟨fun hf => hostCommand_faulted hw hf, fun ha => ?_⟩⟩
  obtain ⟨d, hvalid, hfree, hstart⟩ := startGame_eq_placeFood hw
  have hcell : d.cell.toCell.valid s.cfg.mc = true := (toCell_valid _ _).trans hvalid
  refine ⟨d.cell, d.draws, d.drawCount, pixSetIn s.cfg.mc d.cell.toCell (initialPix s.cfg), ?_, hvalid, hfree,
    wf_pixSetIn _ (wf_initialPix s.cfg), inSpace_pixSetIn (inSpace_initialPix hw) (Cell.module_lt hcell),
    fun c hc => ?_⟩
  · exact (execNewGame_eq hw ha).trans (congrArg _ (hstart.trans (placeFood_freshGame_eq d hw)))
  · rw [lit_pixSetIn (wf_initialPix s.cfg) hcell hc, lit_initialPix hw hc, or_comm]

end Sys2Proof.Machine
end

section
/-!
PROOFS. The engine tick family (spec/43_engine_tick.md): the direction lock (R192 to R194), movement on the torus (R195
to R198), the compaction of the trail (R205), and the outcomes of TICK that need no draw: TrailOverflow (R200), the
collision (R207), the plain move (R202, R204, R206) and the tick in GameOver (R208).
-/

namespace Sys2Proof.Machine

/-! ### The direction lock (R192 to R194) -/

theorem classify_neg {x : BitVec 10} (h : x.toNat < 400) : classify x = .neg := if_pos h

theorem classify_pos {x : BitVec 10} (h : 600 < x.toNat) : classify x = .pos := by
  have hlo : ¬x.toNat < 400 := by omega
  exact (if_neg hlo).trans (if_pos h)

theorem classify_neutral {x : BitVec 10} (hlo : 400 ≤ x.toNat) (hhi : x.toNat ≤ 600) : classify x = .neutral :=
  (if_neg (Nat.not_lt.2 hlo)).trans (if_neg (Nat.not_lt.2 hhi))

/-- While the horizontal axis is locked, the vertical class alone decides (R194). -/
theorem resolve_of_horizontal {d : Dir} (ha : d.axis = .horizontal) (hc : Deflection) :
    resolve d hc .neg = .up ∧ resolve d hc .pos = .down ∧ resolve d hc .neutral = d := by
  simp [resolve, ha]

/-- While the vertical axis is locked, the horizontal class alone decides (R194). -/
theorem resolve_of_vertical {d : Dir} (ha : d.axis = .vertical) (vc : Deflection) :
    resolve d .neg vc = .left ∧ resolve d .pos vc = .right ∧ resolve d .neutral vc = d := by
  simp [resolve, ha]

/-- Under the joystick map of D14, `H` is the horizontal reading and `V` the vertical one, and no side is flipped. -/
theorem tickDir_of_standard_joy {s : State} (h v : BitVec 10) (hj : s.cfg.joy = Config.standard.joy) :
    tickDir h v s = resolve s.dir (classify h) (classify v) := by
  rw [tickDir, hj]
  rfl

/-- Settles O35: only the class of the reading on the free axis counts. -/
theorem directionLock : Obligations.DirectionLock := by
  intro h v s hj
  rw [tickDir_of_standard_joy h v hj]
  refine ⟨fun ha => ?_, fun ha => ?_⟩
  · obtain ⟨hneg, hpos, hneutral⟩ := resolve_of_horizontal ha (classify h)
    exact ⟨fun hv => by rw [classify_neg hv, hneg], fun hv => by rw [classify_pos hv, hpos],
      fun hlo hhi => by rw [classify_neutral hlo hhi, hneutral]⟩
  · obtain ⟨hneg, hpos, hneutral⟩ := resolve_of_vertical ha (classify v)
    exact ⟨fun hh => by rw [classify_neg hh, hneg], fun hh => by rw [classify_pos hh, hpos],
      fun hlo hhi => by rw [classify_neutral hlo hhi, hneutral]⟩

/-! ### Movement on the torus (R195 to R198) -/

/-- The number a sign stands for (R6). -/
def signValue (sign : StepSign) : Int := if sign = .plus then 1 else -1

theorem signValue_neg (sign : StepSign) : signValue sign.neg = -signValue sign := by cases sign <;> rfl

theorem neg_neg_sign (sign : StepSign) : sign.neg.neg = sign := by cases sign <;> rfl

/-- A row moves modulo 8. -/
theorem stepRow_toNat (sign : StepSign) (r : BitVec 3) :
    ((stepRow sign r).toNat : Int) = (r.toNat + signValue sign) % 8 := by
  cases sign <;> revert r <;> decide

/-- A module index moves modulo `mc`. -/
theorem stepModule_cast (sign : StepSign) {mc m : Nat} (h : m < mc) :
    (stepModule sign mc m : Int) = (m + signValue sign) % mc := by
  cases sign with
  | plus => simp [stepModule, signValue]
  | minus =>
    have hsum : ((m + mc - 1 : Nat) : Int) = m + -1 + mc := by omega
    rw [stepModule, Int.natCast_mod, hsum, Int.add_emod_right]
    rfl

theorem stepRow_neg_stepRow (sign : StepSign) (r : BitVec 3) : stepRow sign.neg (stepRow sign r) = r := by
  cases sign <;> simp [stepRow, StepSign.neg]

theorem stepModule_neg_stepModule (sign : StepSign) {mc m : Nat} (h : m < mc) :
    stepModule sign.neg mc (stepModule sign mc m) = m := by
  have key : (stepModule sign.neg mc (stepModule sign mc m) : Int) = m := by
    rw [stepModule_cast _ (stepModule_lt sign h), stepModule_cast sign h, signValue_neg, Int.emod_add_emod,
      Int.add_neg_cancel_right, Int.emod_eq_of_lt (by omega) (by omega)]
  exact_mod_cast key

theorem shiftRight_shiftLeft_columnBit (b : Byte) (h : isColumnBit b = true) (hb : b ≠ 0x01#8) :
    b >>> 1 ≠ 0x80#8 ∧ (b >>> 1) <<< 1 = b := by
  revert b; decide

theorem shiftLeft_shiftRight_columnBit (b : Byte) (h : isColumnBit b = true) (hb : b ≠ 0x80#8) :
    b <<< 1 ≠ 0x01#8 ∧ (b <<< 1) >>> 1 = b := by
  revert b; decide

theorem moveDown_moveUp (cfg : Config) (c : Cell) : moveDown cfg (moveUp cfg c) = c := by
  simp [moveDown, moveUp, stepRow_neg_stepRow]

theorem moveUp_moveDown (cfg : Config) (c : Cell) : moveUp cfg (moveDown cfg c) = c := by
  have h := stepRow_neg_stepRow cfg.upDelta.neg c.row
  rw [neg_neg_sign] at h
  simp [moveDown, moveUp, h]

theorem moveLeft_moveRight {cfg : Config} {c : Cell} (hc : c.valid cfg.mc = true) :
    moveLeft cfg (moveRight cfg c) = c := by
  obtain ⟨r, m, b⟩ := c
  by_cases hb : b = 0x01#8
  · subst hb
    simp [moveRight, moveLeft, stepModule_neg_stepModule _ (Cell.module_lt hc)]
  · obtain ⟨hne, hback⟩ := shiftRight_shiftLeft_columnBit _ (Cell.isColumnBit_of_valid hc) hb
    simp [moveRight, moveLeft, hb, hne, hback]

theorem moveRight_moveLeft {cfg : Config} {c : Cell} (hc : c.valid cfg.mc = true) :
    moveRight cfg (moveLeft cfg c) = c := by
  obtain ⟨r, m, b⟩ := c
  by_cases hb : b = 0x80#8
  · subst hb
    have h := stepModule_neg_stepModule cfg.rightStep.neg (Cell.module_lt hc)
    rw [neg_neg_sign] at h
    simp [moveRight, moveLeft, h]
  · obtain ⟨hne, hback⟩ := shiftLeft_shiftRight_columnBit _ (Cell.isColumnBit_of_valid hc) hb
    simp [moveRight, moveLeft, hb, hne, hback]

/-- Every move is undone by its opposite. -/
theorem move_opposite_move {cfg : Config} {c : Cell} (hc : c.valid cfg.mc = true) (d : Dir) :
    move cfg (move cfg c d) d.opposite = c := by
  cases d with
  | up => exact moveDown_moveUp cfg c
  | down => exact moveUp_moveDown cfg c
  | right => exact moveLeft_moveRight hc
  | left => exact moveRight_moveLeft hc

/-- R197, with the module as an integer. -/
theorem moveRight_spec {cfg : Config} {c : Cell} (hc : c.valid cfg.mc = true) :
    (moveRight cfg c).row = c.row ∧
      if c.columnBit = 0x01#8 then
        ((moveRight cfg c).module : Int) = (c.module + signValue cfg.rightStep) % cfg.mc ∧
          (moveRight cfg c).columnBit = 0x80#8
      else (moveRight cfg c).module = c.module ∧ (moveRight cfg c).columnBit = c.columnBit >>> 1 := by
  rw [moveRight]
  split_ifs
  · exact ⟨rfl, stepModule_cast _ (Cell.module_lt hc), rfl⟩
  · exact ⟨rfl, rfl, rfl⟩

/-- R198, with the module as an integer. -/
theorem moveLeft_spec {cfg : Config} {c : Cell} (hc : c.valid cfg.mc = true) :
    (moveLeft cfg c).row = c.row ∧
      if c.columnBit = 0x80#8 then
        ((moveLeft cfg c).module : Int) = (c.module - signValue cfg.rightStep) % cfg.mc ∧
          (moveLeft cfg c).columnBit = 0x01#8
      else (moveLeft cfg c).module = c.module ∧ (moveLeft cfg c).columnBit = c.columnBit <<< 1 := by
  rw [moveLeft, sub_eq_add_neg, ← signValue_neg]
  split_ifs
  · exact ⟨rfl, stepModule_cast _ (Cell.module_lt hc), rfl⟩
  · exact ⟨rfl, rfl, rfl⟩

/-- Settles O38: rows and modules move modulo their number, and a step and the step of the other sign cancel. -/
theorem movesFollowTheTorus : Obligations.MovesFollowTheTorus := by
  intro cfg c hc
  have hdown : ((stepRow cfg.upDelta.neg c.row).toNat : Int) = (c.row.toNat - signValue cfg.upDelta) % 8 := by
    rw [stepRow_toNat, signValue_neg, ← sub_eq_add_neg]
  exact ⟨⟨stepRow_toNat cfg.upDelta c.row, rfl, rfl⟩, ⟨hdown, rfl, rfl⟩, moveRight_spec hc, moveLeft_spec hc,
    move_opposite_move hc⟩

/-! ### The compaction of the trail (R205) -/

/-- The body of R205's two loops at index `i`: a copy inside the window to come, ZERO behind it. -/
def compactStep (cap len : Nat) (tr : List Cell) (i : Nat) : List Cell :=
  tr.set i (if i < len then tr.getD (cap - len + i) Cell.zero else Cell.zero)

theorem foldl_compactStep_length (cap len : Nat) (is : List Nat) (tr : List Cell) :
    (is.foldl (compactStep cap len) tr).length = tr.length := by
  induction is generalizing tr with
  | nil => rfl
  | cons i is ih => rw [List.foldl_cons, ih, compactStep, List.length_set]

/-- After the indices below `n`, these hold what the rule gives them and the others what they held: what the body reads
lies above what it has written, because `len < cap`. -/
theorem foldl_compactStep_getElem? {cap len n : Nat} {tr : List Cell} (hl : tr.length = cap) (hc : len < cap)
    (hn : n ≤ cap) (j : Nat) :
    ((List.range n).foldl (compactStep cap len) tr)[j]? =
      if j < n then (if j < len then tr[cap - len + j]? else some Cell.zero) else tr[j]? := by
  induction n generalizing j with
  | zero => simp
  | succ n ih =>
    have hread : ((List.range n).foldl (compactStep cap len) tr)[cap - len + n]? = tr[cap - len + n]? := by
      rw [ih (by omega), if_neg (by omega)]
    rw [List.range_succ, List.foldl_concat, compactStep, List.getElem?_set, foldl_compactStep_length,
      List.getD_eq_getElem?_getD, hread, ih (by omega)]
    by_cases hj : n = j
    · subst hj
      rw [if_pos rfl, if_pos (by omega), if_pos (Nat.lt_succ_self n)]
      split_ifs with hw
      · rw [List.getElem?_eq_getElem (by omega)]
        rfl
      · rfl
    · rw [if_neg hj]
      exact if_congr (by omega) rfl rfl

/-- The one-pass compaction is the two loops. -/
theorem compact_eq_foldl {cap len : Nat} {tr : List Cell} (hl : tr.length = cap) (hc : len < cap) :
    trailSlice tr (cap - len) cap ++ List.replicate (cap - len) Cell.zero =
      (List.range cap).foldl (compactStep cap len) tr := by
  refine List.ext_getElem? fun j => ?_
  rw [foldl_compactStep_getElem? hl hc le_rfl, List.getElem?_append, trailSlice_length hl.ge, trailSlice_getElem?,
    List.getElem?_replicate]
  by_cases hwin : j < len
  · rw [if_pos (by omega), if_pos (by omega), if_pos (by omega), if_pos hwin]
  · rw [if_neg (by omega), if_neg hwin]
    by_cases hj : j < cap
    · rw [if_pos (by omega), if_pos hj]
    · rw [if_neg (by omega), if_neg hj, List.getElem?_eq_none (by omega)]

/-- Settles O54: the compaction agrees with the two loops at every index. -/
theorem rolloverIsTheLoopOfTheRule : Obligations.RolloverIsTheLoopOfTheRule := by
  intro s hl hc
  rw [rollover, compact_eq_foldl hl hc]
  rfl

/-! ### TICK: its outcomes -/

theorem tickAte_eq_true {h v : BitVec 10} {s : State} : tickAte h v s = true ↔ tickHead h v s = s.food.toCell :=
  beq_iff_eq

theorem tickAte_eq_false {h v : BitVec 10} {s : State} : tickAte h v s = false ↔ tickHead h v s ≠ s.food.toCell :=
  beq_eq_false_iff_ne

/-- The capacity check of R200. -/
theorem tickOverflows_eq_true {h v : BitVec 10} {s : State} :
    tickOverflows h v s = true ↔ tickHead h v s = s.food.toCell ∧ s.cfg.cap ≤ s.length + 1 := by
  rw [tickOverflows, Bool.and_eq_true, tickAte_eq_true, decide_eq_true_eq]

theorem tickOverflows_of_not_ate {h v : BitVec 10} {s : State} (ha : tickAte h v s = false) :
    tickOverflows h v s = false := by
  rw [tickOverflows, ha, Bool.false_and]

theorem tickRuns_iff {s : State} :
    s.tickRuns = true ↔ s.cfg.wf = true ∧ s.accepting = true ∧ s.phase = .running := by
  rw [State.tickRuns, Bool.and_eq_true, Bool.and_eq_true, beq_iff_eq, and_assoc]

theorem not_hung_of_tickRuns {s : State} (hr : s.tickRuns = true) : s.hung = false := by
  obtain ⟨-, ha, -⟩ := tickRuns_iff.1 hr
  rw [State.accepting, Bool.and_eq_true, Bool.not_eq_true'] at ha
  exact ha.2

/-- A TICK that runs is the tick itself where every index it uses is in range (R190). -/
theorem execTick_of_tickRuns {s : State} (h v : BitVec 10) (hr : s.tickRuns = true) :
    execTick h v s =
      if trailInRange s && pixInRange h v s then .next (runTick h v s) else tickOutOfRange h v s := by
  obtain ⟨hw, ha, hp⟩ := tickRuns_iff.1 hr
  rw [execTick, hostCommand_accepting hw ha, hp]

/-- TICK in GameOver does nothing (R208). -/
theorem execTick_of_gameOver {s : State} (h v : BitVec 10) (hw : s.cfg.wf = true) (hp : s.phase = .gameOver) :
    execTick h v s = .next s := by
  rw [execTick, hp]
  cases ha : s.accepting with
  | true => exact hostCommand_accepting hw ha
  | false => exact hostCommand_ignored hw ha

theorem runTick_of_overflows {h v : BitVec 10} {s : State} (ho : tickOverflows h v s = true) :
    runTick h v s = raiseFault .trailOverflow s := if_pos ho

/-- The overflow is found before any index is used (R238). -/
theorem execTick_of_overflows {h v : BitVec 10} {s : State} (hr : s.tickRuns = true)
    (ho : tickOverflows h v s = true) : execTick h v s = .next (raiseFault .trailOverflow s) := by
  rw [execTick_of_tickRuns h v hr]
  split_ifs
  · rw [runTick_of_overflows ho]
  · exact if_pos ho

/-- A tick that does not overflow raises no fault. -/
theorem runTick_fault {h v : BitVec 10} {s : State} (ho : tickOverflows h v s = false) :
    (runTick h v s).fault = s.fault := by
  obtain ⟨ho', -⟩ | ⟨-, -, e⟩ | ⟨-, -, -, e⟩ | ⟨-, -, -, e⟩ := runTick_cases h v s
  · exact absurd (ho'.symm.trans ho) (by decide)
  · simp [e]
  · obtain ⟨d, -, -, -, e'⟩ | ⟨-, e'⟩ := spawnFood_cases (tickKeep h v s ++ [tickHead h v s])
      (appendHead (tickHead h v s)) (eatFood { s with dir := tickDir h v s, head := tickHead h v s }) <;>
    simp [e, e']
  · simp [e]

/-! ### The instructions that are not of the game (R27, R230) -/

theorem emit_phase (es : List BusEvent) (s : State) : (emit es s).phase = s.phase := by rw [emit_eq]

theorem emit_fault (es : List BusEvent) (s : State) : (emit es s).fault = s.fault := by rw [emit_eq]

/-- From `s` to `t` PHASE stays, and FAULT stays or becomes IllegalCommand. -/
def KeepsGameStatus (s t : State) : Prop :=
  t.phase = s.phase ∧ (t.fault = s.fault ∨ t.fault = some .illegalCommand)

theorem keepsGameStatus_refl (s : State) : KeepsGameStatus s s := ⟨rfl, .inl rfl⟩

theorem keepsGameStatus_emit (es : List BusEvent) (s : State) : KeepsGameStatus s (emit es s) :=
  ⟨emit_phase es s, .inl (emit_fault es s)⟩

theorem atLatchedChip_keepsGameStatus {s t : State} {act : Chip → Chip} (e : atLatchedChip s act = .next t) :
    KeepsGameStatus s t := by
  obtain ⟨-, c, chip, -, -, rfl⟩ := atLatchedChip_next e
  exact ⟨rfl, .inl rfl⟩

/-- Only NEW_GAME and TICK can change PHASE or raise TrailOverflow. -/
theorem exec_keepsGameStatus {i : Instr} {s t : State} (hn : i ≠ .newGame) (ht : ∀ h v, i ≠ .tick h v)
    (e : exec i s = .next t) : KeepsGameStatus s t := by
  cases i
  case configure =>
    obtain ⟨-, ⟨-, rfl⟩ | ⟨-, rfl⟩⟩ := execConfigure_next e
    · exact keepsGameStatus_emit _ s
    · exact keepsGameStatus_refl t
  case render =>
    obtain ⟨-, ⟨-, rfl⟩ | ⟨-, rfl⟩⟩ := execRender_next e
    · exact keepsGameStatus_emit _ s
    · exact keepsGameStatus_refl t
  case newGame => exact absurd rfl hn
  case tick h v => exact absurd rfl (ht h v)
  case illegal =>
    obtain ⟨-, ⟨-, rfl⟩ | ⟨-, rfl⟩⟩ := hostCommand_runs e
    · exact ⟨rfl, .inr rfl⟩
    · exact keepsGameStatus_refl t
  case wReservedD => cases e
  case wReservedE => cases e
  -- every other wire frame is one `atLatchedChip`
  all_goals exact atLatchedChip_keepsGameStatus e

/-! ### GameOver (R208) -/

/-- No instruction but NEW_GAME leaves GameOver. -/
theorem exec_leaves_gameOver {i : Instr} {s t : State} (e : exec i s = .next t) (hs : s.phase = .gameOver)
    (ht : t.phase = .running) : i = .newGame := by
  by_contra hn
  have hkeep : t.phase = s.phase := by
    by_cases htick : ∃ h v, i = .tick h v
    · obtain ⟨h, v, rfl⟩ := htick
      obtain ⟨hw, -⟩ := execTick_next e
      cases (execTick_of_gameOver h v hw hs).symm.trans e
      rfl
    · exact (exec_keepsGameStatus hn (fun h v hi => htick ⟨h, v, hi⟩) e).1
  rw [hkeep, hs] at ht
  cases ht

theorem decodeFrame_ne_newGame (w : BitVec 16) : decodeFrame w ≠ .newGame := by
  rw [decodeFrame]
  split <;> nofun

/-- Settles O45: a step runs at most one instruction, and of the instructions only NEW_GAME leaves GameOver. -/
theorem tickInGameOverDoesNothing : Obligations.TickInGameOverDoesNothing := by
  refine ⟨fun h v s hw hp => execTick_of_gameOver h v hw hp, fun i s t e hs ht => exec_leaves_gameOver e hs ht,
    fun s t e hs ht => ?_⟩
  obtain ⟨-, ⟨n, hreset, -⟩ | ⟨-, -, chip, -, he⟩ | ⟨-, -, -, rfl⟩ | ⟨-, -, -, w, rest, hport, he⟩⟩ := step_next e
  · exact .inl (by simp [hreset])
  · exact absurd (exec_leaves_gameOver he hs ht) (decodeFrame_ne_newGame _)
  · exact absurd (hs.symm.trans ht) (by decide)
  · exact .inr ⟨w, rest, hport, exec_leaves_gameOver he hs ht⟩

/-! ### TrailOverflow (R200, R233) -/

theorem execNewGame_fault {s t : State} (e : execNewGame s = .next t) : t.fault = s.fault := by
  obtain ⟨-, ⟨-, rfl⟩ | ⟨-, rfl⟩⟩ := hostCommand_runs e
  · simp [startGame_frame]
  · rfl

/-- A TICK raises no other fault than TrailOverflow, and that only by the capacity check. -/
theorem execTick_fault {h v : BitVec 10} {s t : State} (e : execTick h v s = .next t) :
    t.fault = s.fault ∨ tickOverflows h v s = true := by
  obtain ⟨-, ⟨rfl, -⟩ | ⟨-, -, -, rfl⟩ | ⟨-, ho, -⟩⟩ := execTick_next e
  · exact .inl rfl
  · cases ho : tickOverflows h v s with
    | true => exact .inr rfl
    | false => exact .inl (runTick_fault ho)
  · exact .inr ho

theorem exec_raises_trailOverflow {i : Instr} {s t : State} (e : exec i s = .next t)
    (hf : t.fault = some .trailOverflow) :
    s.fault = some .trailOverflow ∨ ∃ h v, i = .tick h v ∧ tickOverflows h v s = true := by
  by_cases hn : i = .newGame
  · subst hn
    exact .inl ((execNewGame_fault e).symm.trans hf)
  by_cases htick : ∃ h v, i = .tick h v
  · obtain ⟨h, v, rfl⟩ := htick
    exact (execTick_fault e).imp (fun hk => hk.symm.trans hf) fun ho => ⟨h, v, rfl, ho⟩
  · obtain ⟨-, hk | hi⟩ := exec_keepsGameStatus hn (fun h v hi => htick ⟨h, v, hi⟩) e
    · exact .inl (hk.symm.trans hf)
    · rw [hi] at hf
      cases hf

/-- Settles O46: the capacity check comes first and is the only place that raises TrailOverflow. -/
theorem tickOverflowFaultsBeforeAnyWrite : Obligations.TickOverflowFaultsBeforeAnyWrite := by
  refine ⟨fun h v s hr hate hcap => execTick_of_overflows hr (tickOverflows_eq_true.2 ⟨hate, hcap⟩),
    fun i s t e hf => (exec_raises_trailOverflow e hf).imp_right ?_⟩
  rintro ⟨h, v, rfl, ho⟩
  exact ⟨h, v, rfl, tickOverflows_eq_true.1 ho⟩

/-! ### A tick of a legal state -/

theorem LegalState.tickHead_valid {s : State} (hs : LegalState s) (h v : BitVec 10) :
    (tickHead h v s).valid s.cfg.mc = true :=
  move_valid _ hs.headOnGrid

section
variable {s : State} (hs : LegalState s) (hh : s.hung = false)
include hs hh

/-- I1 of R170 as bounds on the trail. -/
theorem LegalState.trailBounds :
    0 < s.length ∧ s.length < s.cfg.cap ∧ s.length ≤ s.stepper ∧ s.stepper < s.cfg.cap := by
  obtain ⟨hlo, hhi⟩ := (hs.game hh).lengthInRange
  obtain ⟨hls, hcap⟩ := (hs.game hh).stepperInRange
  omega

/-- The window is its tail cell and the rest of it, at the slots behind it (R28, R202). -/
theorem LegalState.window_eq :
    s.window = s.tail :: s.window.tail ∧
      s.window.tail = trailSlice s.trail (s.stepper - s.length + 1) s.stepper := by
  obtain ⟨hpos, -, hls, hcap⟩ := hs.trailBounds hh
  have htrail := hs.trailLength
  have hwin := window_eq_tail_cons (s := s) (by omega) hls hpos
  rw [hwin]
  exact ⟨rfl, rfl⟩

/-- The tail cell is valid (I3) and is neither the food (I5) nor another cell of the window (I3). -/
theorem LegalState.tail_spec :
    s.tail.valid s.cfg.mc = true ∧ s.tail ≠ s.food.toCell ∧ s.tail ∉ s.window.tail := by
  have g := hs.game hh
  obtain ⟨hwin, -⟩ := hs.window_eq hh
  have hmem : s.tail ∈ s.window := by rw [hwin]; exact List.mem_cons_self
  have hnodup := g.windowDistinct
  rw [hwin, List.nodup_cons] at hnodup
  exact ⟨g.windowValid _ hmem, fun e => g.foodOffSnake (e ▸ hmem), hnodup.1⟩

/-- Every index a tick uses is in range. -/
theorem LegalState.inRange (h v : BitVec 10) : (trailInRange s && pixInRange h v s) = true := by
  obtain ⟨-, -, hls, hcap⟩ := hs.trailBounds hh
  obtain ⟨htail, -, -⟩ := hs.tail_spec hh
  simp [trailInRange, pixInRange, hls, hcap, hs.trailLength, Cell.module_lt htail,
    Cell.module_lt (hs.tickHead_valid h v)]

/-- A tick that does not eat vacates the tail, so it collides with any cell of the window but the tail (R203). -/
theorem LegalState.tickCollides_eq {h v : BitVec 10} (ha : tickAte h v s = false) :
    tickCollides h v s = s.window.tail.contains (tickHead h v s) := by
  rw [tickCollides, tickKeep, keepFrom, ha, (hs.window_eq hh).2]
  rfl

end

/-- A TICK that runs in a legal state always completes. -/
theorem LegalState.execTick_eq {s : State} (hs : LegalState s) (h v : BitVec 10) (hr : s.tickRuns = true) :
    execTick h v s = .next (runTick h v s) := by
  rw [execTick_of_tickRuns h v hr, hs.inRange (not_hung_of_tickRuns hr) h v, if_pos rfl]

/-! ### The collision (R203, R207) -/

theorem runTick_of_collides {h v : BitVec 10} {s : State} (ho : tickOverflows h v s = false)
    (hc : tickCollides h v s = true) : runTick h v s = enterGameOver s := by
  simp [runTick, ho, hc]

/-- Settles O44: the food is no cell of the window, so this tick neither eats nor overflows, and it collides. -/
theorem tickCollisionEndsTheGame : Obligations.TickCollisionEndsTheGame := by
  intro h v s hs hr hmem
  have hh := not_hung_of_tickRuns hr
  have ha : tickAte h v s = false :=
    tickAte_eq_false.2 fun e => (hs.game hh).foodOffSnake (e ▸ List.mem_of_mem_tail hmem)
  have hc : tickCollides h v s = true := by rwa [hs.tickCollides_eq hh ha, List.contains_iff_mem]
  exact (hs.execTick_eq h v hr).trans (congrArg _ (runTick_of_collides (tickOverflows_of_not_ate ha) hc))

/-! ### The plain move (R202, R204 to R206) -/

/-- The state whose tail a plain move vacates: the direction and the head are the new ones (R190). -/
def steered (h v : BitVec 10) (s : State) : State :=
  { s with dir := tickDir h v s, head := tickHead h v s }

/-- A plain move: the tail leaves, the new head is appended (R190). -/
def plainMove (h v : BitVec 10) (s : State) : State :=
  appendHead (tickHead h v s) (vacateTail (steered h v s))

theorem runTick_of_moves {h v : BitVec 10} {s : State} (ha : tickAte h v s = false)
    (hc : tickCollides h v s = false) : runTick h v s = plainMove h v s := by
  simp [runTick, tickOverflows_of_not_ate ha, ha, hc, plainMove, steered]

/-- The append changes the trail, the stepper and the Pixel Buffer, and nothing else. -/
theorem appendHead_eq (c : Cell) (s : State) :
    appendHead c s =
      { s with
        trail := (appendHead c s).trail
        pix := (appendHead c s).pix
        stepper := if s.stepper = s.cfg.cap - 1 then s.length else s.stepper + 1 } := by
  by_cases h : s.stepper = s.cfg.cap - 1 <;> simp [appendHead, advanceStepper, pixSet, rollover, h]

theorem plainMove_eq (h v : BitVec 10) (s : State) :
    plainMove h v s =
      { s with
        dir := tickDir h v s
        head := move s.cfg s.head (tickDir h v s)
        trail := (plainMove h v s).trail
        pix := (plainMove h v s).pix
        stepper := if s.stepper = s.cfg.cap - 1 then s.length else s.stepper + 1 } :=
  appendHead_eq _ _

theorem plainMove_pix (h v : BitVec 10) (s : State) :
    (plainMove h v s).pix = pixSetIn s.cfg.mc (tickHead h v s) (pixClearIn s.cfg.mc s.tail s.pix) :=
  appendHead_pix _ _

section
variable {s : State} (hs : LegalState s) (hh : s.hung = false) (h v : BitVec 10)
include hs hh

/-- R212: the tail leaves the window and the new head joins it. -/
theorem LegalState.plainMove_window : (plainMove h v s).window = s.window.tail ++ [tickHead h v s] := by
  obtain ⟨hpos, -, hls, hcap⟩ := hs.trailBounds hh
  have hlen : (vacateTail (steered h v s)).trail.length = s.cfg.cap := by simp [steered, hs.trailLength]
  have hrest : trailSlice (vacateTail (steered h v s)).trail (s.stepper + 1 - s.length) s.stepper = s.window.tail := by
    rw [(hs.window_eq hh).2, Nat.sub_add_comm hls]
    exact trailSlice_set_outside _ (.inl (Nat.lt_succ_self _))
  rw [← hrest]
  exact appendHead_window _ hlen hcap hpos (by simp [steered]; omega)

/-- The vacated slot is ZERO, as every slot outside the new window (I4 of R170). -/
theorem LegalState.plainMove_outside (i : Nat) (hi : i < s.cfg.cap)
    (ho : i < (plainMove h v s).stepper - (plainMove h v s).length ∨ (plainMove h v s).stepper ≤ i) :
    (plainMove h v s).trail[i]? = some Cell.zero := by
  obtain ⟨hpos, hlt, hls, hcap⟩ := hs.trailBounds hh
  have hlen : (vacateTail (steered h v s)).trail.length = s.cfg.cap := by simp [steered, hs.trailLength]
  have hzero (j : Nat) (hj : j < s.cfg.cap) (hout : j < s.stepper + 1 - s.length ∨ s.stepper ≤ j) :
      (s.trail.set (s.stepper - s.length) Cell.zero)[j]? = some Cell.zero := by
    by_cases htail : s.stepper - s.length = j
    · rw [htail, List.getElem?_set_self (hs.trailLength.symm ▸ hj)]
    · rw [List.getElem?_set_ne htail]
      exact (hs.game hh).outsideZero j hj (by omega)
  exact appendHead_outside _ hlen hcap hpos hlt hzero i hi ho

/-- Exactly the new window and the food are lit (I6 of R170): the tail, which goes dark, is neither the food nor another
cell of the window. -/
theorem LegalState.plainMove_lit {c : Cell} (hc : c.valid s.cfg.mc = true) :
    lit s.cfg.mc (plainMove h v s).pix c = true ↔ c ∈ (plainMove h v s).window ∨ c = s.food.toCell := by
  obtain ⟨htail, hfood, hrest⟩ := hs.tail_spec hh
  have hbefore := (hs.game hh).litExactly c hc
  rw [(hs.window_eq hh).1, List.mem_cons] at hbefore
  rw [plainMove_pix, lit_pixSetIn (wf_pixClearIn _ hs.pixCanonical) (hs.tickHead_valid h v) hc,
    lit_pixClearIn hs.pixCanonical htail hc, hbefore, hs.plainMove_window hh, List.mem_append, List.mem_singleton]
  by_cases hct : c = s.tail
  · subst hct
    simp [hfood, hrest]
  · simp only [hct, ne_eq, not_false_eq_true, true_and, false_or]
    rw [← or_assoc, or_comm (a := c = _)]

end

/-- Settles O42: the tick is the plain move. -/
theorem tickMovesTheSnake : Obligations.TickMovesTheSnake := by
  intro h v s hs hr hfood hmem
  have hh := not_hung_of_tickRuns hr
  have ha : tickAte h v s = false := tickAte_eq_false.2 hfood
  have hc : tickCollides h v s = false := by
    rw [hs.tickCollides_eq hh ha]
    simpa using hmem
  have hhead : (plainMove h v s).head = tickHead h v s := appendHead_head _ _
  refine ⟨plainMove h v s, ?_, plainMove_eq h v s, ?_, hs.plainMove_outside hh h v,
    fun c hc => hs.plainMove_lit hh h v hc⟩
  · exact (hs.execTick_eq h v hr).trans (congrArg _ (runTick_of_moves ha hc))
  · rw [hhead, hs.plainMove_window hh]

end Sys2Proof.Machine
end

section
/-!
PROOFS. The exceptions family (spec/60_exceptions.md): who raises a fault, and a faulted block that does nothing (R231).
-/

namespace Sys2Proof.Machine

theorem fault_eq_none_of_accepting {s : State} (ha : s.accepting = true) : s.fault = none := by
  rw [State.accepting, Bool.and_eq_true, Option.isNone_iff_eq_none] at ha
  exact ha.1

/-- From `s` to `t` FAULT stays, or an accepting block raises a cause and does nothing else. -/
def KeepsOrRaisesFault (s t : State) : Prop :=
  t.fault = s.fault ∨ s.accepting = true ∧ ∃ cause, t = raiseFault cause s

/-- What changed FAULT raised it, in a block without a fault. -/
theorem KeepsOrRaisesFault.raised {s t : State} (h : KeepsOrRaisesFault s t) (hne : t.fault ≠ s.fault) :
    s.fault = none ∧ ∃ cause, t = raiseFault cause s :=
  (h.resolve_left hne).imp_left fault_eq_none_of_accepting

/-- A fault that is recorded stays. -/
theorem KeepsOrRaisesFault.fault_eq {s t : State} (h : KeepsOrRaisesFault s t) (hf : s.fault.isSome = true) :
    t.fault = s.fault := by
  by_contra hne
  rw [(h.raised hne).1] at hf
  cases hf

/-- The only fault of a TICK is the capacity check's, made before anything is written (R238). -/
theorem execTick_keepsOrRaisesFault {h v : BitVec 10} {s t : State} (e : execTick h v s = .next t) :
    KeepsOrRaisesFault s t := by
  obtain ⟨-, ⟨rfl, -⟩ | ⟨hr, -, -, rfl⟩ | ⟨hr, -, rfl⟩⟩ := execTick_next e
  · exact .inl rfl
  · obtain ⟨-, ha, -⟩ := tickRuns_iff.1 hr
    cases ho : tickOverflows h v s with
    | false => exact .inl (runTick_fault ho)
    | true => exact .inr ⟨ha, _, runTick_of_overflows ho⟩
  · obtain ⟨-, ha, -⟩ := tickRuns_iff.1 hr
    exact .inr ⟨ha, _, rfl⟩

/-- Only ILLEGAL and TICK raise a fault, and neither does anything else when it does (R230, R231). -/
theorem exec_keepsOrRaisesFault {i : Instr} {s t : State} (e : exec i s = .next t) : KeepsOrRaisesFault s t := by
  cases i
  case configure =>
    obtain ⟨-, ⟨-, rfl⟩ | ⟨-, rfl⟩⟩ := execConfigure_next e
    · exact .inl (emit_fault _ s)
    · exact .inl rfl
  case render =>
    obtain ⟨-, ⟨-, rfl⟩ | ⟨-, rfl⟩⟩ := execRender_next e
    · exact .inl (emit_fault _ s)
    · exact .inl rfl
  case newGame => exact .inl (execNewGame_fault e)
  case tick => exact execTick_keepsOrRaisesFault e
  case illegal =>
    obtain ⟨-, ⟨ha, rfl⟩ | ⟨-, rfl⟩⟩ := hostCommand_runs e
    · exact .inr ⟨ha, _, rfl⟩
    · exact .inl rfl
  case wReservedD => cases e
  case wReservedE => cases e
  -- every other wire frame is one `atLatchedChip`, which changes the chain alone
  all_goals
    obtain ⟨-, c, chip, -, -, rfl⟩ := atLatchedChip_next e
    exact .inl rfl

/-- A command of a faulted block has no effect (R231). -/
theorem exec_command_faulted {i : Instr} {s : State} (hi : isCommand i = true) (hw : s.cfg.wf = true)
    (hf : s.fault.isSome = true) : exec i s = .next s := by
  cases i
  -- each command opens with the same check
  case configure => exact hostCommand_faulted hw hf
  case render => exact hostCommand_faulted hw hf
  case newGame => exact hostCommand_faulted hw hf
  case tick => exact hostCommand_faulted hw hf
  case illegal => exact hostCommand_faulted hw hf
  -- the wire frames are no commands
  all_goals cases hi

/-- Without a reset, a step keeps the fault that is recorded (R231). -/
theorem step_keeps_fault {s t : State} (hf : s.fault.isSome = true) (hr : s.resetReq = none)
    (e : step s = .next t) : t.fault = s.fault := by
  obtain ⟨-, ⟨n, hn, -⟩ | ⟨-, -, chip, -, he⟩ | ⟨-, -, -, rfl⟩ | ⟨-, -, -, w, rest, -, he⟩⟩ := step_next e
  · cases hr.symm.trans hn
  · exact (exec_keepsOrRaisesFault he).fault_eq (s := takeFrame s) hf
  · rfl
  · exact (exec_keepsOrRaisesFault he).fault_eq (s := takeCommand s) hf

/-- Settles O6: an instruction raises a fault or keeps it, and a step runs at most one instruction. -/
theorem faultedBlockIsQuiescent : Obligations.FaultedBlockIsQuiescent :=
  ⟨fun _ _ => rfl, fun _ _ _ e hne => (exec_keepsOrRaisesFault e).raised hne,
    fun _ _ hi hw hf => exec_command_faulted hi hw hf, fun _ _ hf hr e => step_keeps_fault hf hr e⟩

end Sys2Proof.Machine
end

section
/-!
PROOFS. The encoding both ways (spec/30_encoding.md rules R71 to R74, R80, R83): the fields of a word that was put
together, and the word put together from its fields.
-/

namespace Sys2Proof
open Sys2Proof.Machine Sys2Proof.Laws.TableRow

/-! ### Wire frames (R74, R83) -/

@[simp] theorem frameAddr_append (a d : Byte) : frameAddr (a ++ d) = a.extractLsb' 0 4 :=
  BitVec.extractLsb'_append_eq_of_le (Nat.le_refl 8)

@[simp] theorem frameData_append (a d : Byte) : frameData (a ++ d) = d :=
  BitVec.extractLsb'_append_eq_right

@[simp] theorem frameAddr_encodeFrame (ign addr : BitVec 4) (data : Byte) :
    frameAddr (encodeFrame ign addr data) = addr :=
  (frameAddr_append (ign ++ addr) data).trans BitVec.extractLsb'_append_eq_right

@[simp] theorem frameData_encodeFrame (ign addr : BitVec 4) (data : Byte) :
    frameData (encodeFrame ign addr data) = data :=
  frameData_append (ign ++ addr) data

@[simp] theorem frameIgnored_encodeFrame (ign addr : BitVec 4) (data : Byte) :
    frameIgnored (encodeFrame ign addr data) = ign := by
  have hup : frameIgnored (encodeFrame ign addr data) = (ign ++ addr).extractLsb' 4 4 :=
    BitVec.extractLsb'_append_eq_of_le (by decide)
  rw [hup, BitVec.extractLsb'_append_eq_left]

/-- A frame is its three fields put together again. -/
theorem encodeFrame_fields (w : BitVec 16) : encodeFrame (frameIgnored w) (frameAddr w) (frameData w) = w := by
  have hup : frameIgnored w ++ frameAddr w = w.extractLsb' 8 8 := BitVec.extractLsb'_append_extractLsb'_eq_extractLsb' rfl
  rw [encodeFrame, hup]
  exact (BitVec.extractLsb'_append_extractLsb'_eq_extractLsb' rfl).trans BitVec.extractLsb'_eq_self

/-- The row of a wire frame is its address (R80): the instruction decoded from the frame is spelled by the same fields. -/
theorem encode_decodeFrame (w : BitVec 16) : encode (decodeFrame w) = .frame w := by
  have key : ∀ (a ign : BitVec 4) (data : Byte), encode (decodeFrame (encodeFrame ign a data)) =
      .frame (encodeFrame ign a data) := by
    rintro ⟨n, hn⟩ ign data
    simp only [decodeFrame, frameAddr_encodeFrame, frameIgnored_encodeFrame, frameData_encodeFrame]
    interval_cases n <;> rfl
  rw [← encodeFrame_fields w]
  exact key _ _ _

theorem decodeFrame_wellFormed (w : BitVec 16) : (decodeFrame w).wellFormed = true := by
  rw [decodeFrame]
  split <;> rfl

/-! ### Command words (R71, R72) -/

@[simp] theorem fieldReg_encodeConfigure (reg val : Byte) : fieldReg (encodeConfigure reg val) = reg := by
  have hup : fieldReg (encodeConfigure reg val) = (0x1000#16 ++ reg).extractLsb' 0 8 :=
    BitVec.extractLsb'_append_eq_of_le (Nat.le_refl 8)
  rw [hup, BitVec.extractLsb'_append_eq_right]

@[simp] theorem fieldVal_encodeConfigure (reg val : Byte) : fieldVal (encodeConfigure reg val) = val :=
  BitVec.extractLsb'_append_eq_right

@[simp] theorem fieldV_encodeTick (h v : BitVec 10) : fieldV (encodeTick h v) = v := by
  have hup : fieldV (encodeTick h v) = (0x400#12 ++ v).extractLsb' 0 10 :=
    BitVec.extractLsb'_append_eq_of_le (Nat.le_refl 10)
  rw [hup, BitVec.extractLsb'_append_eq_right]

@[simp] theorem fieldH_encodeTick (h v : BitVec 10) : fieldH (encodeTick h v) = h :=
  BitVec.extractLsb'_append_eq_right

/-- A word of CONFIGURE's row is its operands put together again. -/
theorem encodeConfigure_fields {w : BitVec 32} (hm : rowConfigure.matches w = true) :
    encodeConfigure (fieldReg w) (fieldVal w) = w := by
  have hop : 0x1000#16 = w.extractLsb' 16 16 := (field_of_matches 16 16 hm (by decide)).symm
  have hup : 0x1000#16 ++ fieldReg w = w.extractLsb' 8 24 := by
    rw [hop]
    exact BitVec.extractLsb'_append_extractLsb'_eq_extractLsb' rfl
  rw [encodeConfigure, hup]
  exact (BitVec.extractLsb'_append_extractLsb'_eq_extractLsb' rfl).trans BitVec.extractLsb'_eq_self

/-- A word of TICK's row is its operands put together again. -/
theorem encodeTick_fields {w : BitVec 32} (hm : rowTick.matches w = true) :
    encodeTick (fieldH w) (fieldV w) = w := by
  have hop : 0x400#12 = w.extractLsb' 20 12 := (field_of_matches 20 12 hm (by decide)).symm
  have hup : 0x400#12 ++ fieldV w = w.extractLsb' 10 22 := by
    rw [hop]
    exact BitVec.extractLsb'_append_extractLsb'_eq_extractLsb' rfl
  rw [encodeTick, hup]
  exact (BitVec.extractLsb'_append_extractLsb'_eq_extractLsb' rfl).trans BitVec.extractLsb'_eq_self

/-- RENDER and NEW_GAME leave no bit free: their row holds one word. -/
theorem eq_of_matches_full {r : OpRow 32} {w : BitVec 32} (hm : r.matches w = true) (hmask : r.mask = BitVec.allOnes 32) :
    w = r.value := by
  rw [OpRow.matches, hmask, BitVec.and_allOnes] at hm
  exact eq_of_beq hm

/-- A word that no row takes is well formed as the operand of ILLEGAL (R78). -/
theorem isIllegalWord_of_inNoRow {w : BitVec 32} (hc : ¬rowConfigure.matches w = true)
    (hr : ¬rowRender.matches w = true) (hn : ¬rowNewGame.matches w = true) (ht : ¬rowTick.matches w = true) :
    isIllegalWord w = true := by
  rw [rowConfigure_matches_iff] at hc
  rw [rowRender_matches_iff] at hr
  rw [rowNewGame_matches_iff] at hn
  rw [rowTick_matches_iff] at ht
  rw [isIllegalWord]
  split <;> simp_all

/-- A word of the port is the word of the instruction decoded from it, which is well formed (R71, R78). -/
theorem encode_decodeCommand (w : BitVec 32) :
    encode (decodeCommand w) = .command w ∧ (decodeCommand w).wellFormed = true := by
  rw [decodeCommand]
  split_ifs with hc hr hn ht
  · exact ⟨congrArg _ (encodeConfigure_fields hc), rfl⟩
  · exact ⟨congrArg _ (eq_of_matches_full hr rfl).symm, rfl⟩
  · exact ⟨congrArg _ (eq_of_matches_full hn rfl).symm, rfl⟩
  · exact ⟨congrArg _ (encodeTick_fields ht), rfl⟩
  · exact ⟨rfl, isIllegalWord_of_inNoRow hc hr hn ht⟩

theorem decodeCommand_encodeConfigure (reg val : Byte) :
    decodeCommand (encodeConfigure reg val) = .configure reg val := by
  have hm : rowConfigure.matches (encodeConfigure reg val) = true := Laws.TableRow.configure reg val rfl
  rw [decodeCommand, if_pos hm, fieldReg_encodeConfigure, fieldVal_encodeConfigure]

/-- A word of TICK's row has `OP` 4, so it lies in no other row. -/
theorem decodeCommand_encodeTick (h v : BitVec 10) : decodeCommand (encodeTick h v) = .tick h v := by
  have hm : rowTick.matches (encodeTick h v) = true := Laws.TableRow.tick h v rfl
  have hop := ((rowTick_matches_iff _).1 hm).1
  rw [decodeCommand, if_neg (by simp [rowConfigure_matches_iff, hop]), if_neg (by simp [rowRender_matches_iff, hop]),
    if_neg (by simp [rowNewGame_matches_iff, hop]), if_pos hm, fieldH_encodeTick, fieldV_encodeTick]

theorem decodeCommand_of_isIllegalWord {w : BitVec 32} (hw : isIllegalWord w = true) : decodeCommand w = .illegal w := by
  have hno : inNoRow (.command w) = true := Laws.TableRow.illegal w hw
  simp only [inNoRow, Bool.not_eq_true', Bool.or_eq_false_iff] at hno
  obtain ⟨⟨⟨hc, hr⟩, hn⟩, ht⟩ := hno
  rw [decodeCommand_eq_illegal_iff, hc, hr, hn, ht]
  decide

/-- Settles O2: every field of a word is read where the encoder put it. -/
theorem decodeOfEncodeIsIdentity : Obligations.DecodeOfEncodeIsIdentity := by
  intro i hw
  cases i
  case configure reg val => exact decodeCommand_encodeConfigure reg val
  case render => decide
  case newGame => decide
  case tick h v => exact decodeCommand_encodeTick h v
  case illegal w => exact decodeCommand_of_isIllegalWord hw
  -- the wire frames differ in their address alone
  all_goals
    simp only [encode, decode, decodeFrame, frameAddr_encodeFrame, frameIgnored_encodeFrame, frameData_encodeFrame]
    rfl

/-- Settles O3: a word is put together again from the fields its row reads. -/
theorem encodeOfDecodeIsIdentity : Obligations.EncodeOfDecodeIsIdentity
  | .command w => encode_decodeCommand w
  | .frame w => ⟨encode_decodeFrame w, decodeFrame_wellFormed w⟩

/-- Settles O1: one evaluation of the decoder at each listed word. -/
theorem listedWordsDecode : Obligations.ListedWordsDecode := by
  rw [Obligations.ListedWordsDecode]
  decide

end Sys2Proof
end

section
/-!
PROOFS. The host's side of the port (spec/30_encoding.md rules R85, R86; spec/70_reset_and_hazards.md rule R263): the words
of the commands, and numbers read back from their digits.
-/

namespace Sys2Proof.Machine

/-! ### The words of the commands (R85) -/

/-- Format C as R85 writes it. -/
theorem encodeConfigure_eq_or {reg val : Nat} (hr : reg < 256) (hv : val < 256) :
    encodeConfigure (BitVec.ofNat 8 reg) (BitVec.ofNat 8 val) =
      0x10000000#32 ||| BitVec.ofNat 32 reg <<< 8 ||| BitVec.ofNat 32 val := by
  have hshift : reg <<< 8 < 2 ^ 32 := by rw [Nat.shiftLeft_eq]; omega
  apply BitVec.eq_of_toNat_eq
  simp only [encodeConfigure, BitVec.toNat_append, BitVec.toNat_or, BitVec.toNat_shiftLeft, BitVec.toNat_ofNat]
  rw [Nat.mod_eq_of_lt hr, Nat.mod_eq_of_lt hv, Nat.mod_eq_of_lt (by omega : reg < 2 ^ 32), Nat.mod_eq_of_lt hshift,
    Nat.mod_eq_of_lt (by omega : val < 2 ^ 32), Nat.shiftLeft_or_distrib]
  rfl

/-- Format T as R85 writes it. -/
theorem encodeTick_eq_or {h v : Nat} (hh : h < 1024) (hv : v < 1024) :
    encodeTick (BitVec.ofNat 10 h) (BitVec.ofNat 10 v) =
      0x40000000#32 ||| BitVec.ofNat 32 v <<< 10 ||| BitVec.ofNat 32 h := by
  have hshift : v <<< 10 < 2 ^ 32 := by rw [Nat.shiftLeft_eq]; omega
  apply BitVec.eq_of_toNat_eq
  simp only [encodeTick, BitVec.toNat_append, BitVec.toNat_or, BitVec.toNat_shiftLeft, BitVec.toNat_ofNat]
  rw [Nat.mod_eq_of_lt hh, Nat.mod_eq_of_lt hv, Nat.mod_eq_of_lt (by omega : v < 2 ^ 32), Nat.mod_eq_of_lt hshift,
    Nat.mod_eq_of_lt (by omega : h < 2 ^ 32), Nat.shiftLeft_or_distrib]
  rfl

/-! ### Numbers (R85) -/

theorem readDigits_append (base acc : Nat) (cs ds : List Char) :
    readDigits base acc (cs ++ ds) = (readDigits base acc cs).bind fun n => readDigits base n ds := by
  induction cs generalizing acc with
  | nil => rfl
  | cons c cs ih =>
    rw [List.cons_append, readDigits, readDigits]
    cases digitValue base c with
    | some d => exact ih _
    | none => rfl

/-- A digit is read as its value, in every base up to 16. -/
theorem digitValue_digitChar {base d : Nat} (hb : base ≤ 16) (hd : d < base) :
    digitValue base d.digitChar = some d := by
  have hd16 : d < 16 := by omega
  interval_cases d <;> exact if_pos (decide_eq_true hd)

/-- A number is read back from its digits, in every base from 2 to 16. -/
theorem readDigits_toDigits {base : Nat} (h2 : 1 < base) (h16 : base ≤ 16) (n : Nat) :
    readDigits base 0 (Nat.toDigits base n) = some n := by
  induction n using Nat.strong_induction_on with
  | _ n ih =>
    by_cases hn : n < base
    · rw [Nat.toDigits_of_lt_base hn, readDigits, digitValue_digitChar h16 hn]
      simp [readDigits]
    · have hdiv : n / base < n := Nat.div_lt_self (by omega) h2
      rw [Nat.toDigits_of_base_le h2 (Nat.le_of_not_lt hn), readDigits_append, ih _ hdiv, Option.bind_some, readDigits,
        digitValue_digitChar h16 (Nat.mod_lt n (by omega))]
      exact congrArg some (Nat.div_add_mod' n base)

/-- What is read as decimal digits is read as a number: `x` is no decimal digit. -/
theorem readNumber_of_readDigits {cs : List Char} {n : Nat} (hne : cs ≠ []) (h : readDigits 10 0 cs = some n) :
    readNumber cs = some n := by
  have hx : ∀ rest, readDigits 10 0 ('0' :: 'x' :: rest) = none := fun _ => rfl
  unfold readNumber
  split
  · exact absurd rfl hne
  · exact absurd (hx _ ▸ h) nofun
  · exact absurd (hx _ ▸ h) nofun
  · exact h

theorem readNumber_hex {cs : List Char} (hne : cs ≠ []) : readNumber ('0' :: 'x' :: cs) = readDigits 16 0 cs := by
  cases cs with
  | nil => exact absurd rfl hne
  | cons c cs => rfl

/-- Numbers of any size are read from their decimal digits and from their hexadecimal digits after 0x. -/
theorem readNumber_toDigits (n : Nat) :
    readNumber (Nat.toDigits 10 n) = some n ∧ readNumber ('0' :: 'x' :: Nat.toDigits 16 n) = some n := by
  refine ⟨readNumber_of_readDigits Nat.toDigits_ne_nil (readDigits_toDigits (by decide) (by decide) n), ?_⟩
  rw [readNumber_hex Nat.toDigits_ne_nil, readDigits_toDigits (by decide) (by decide) n]

/-! ### Expansion (R86) -/

theorem asmConfigure_of_lt {reg val : Nat} (hr : reg < 256) (hv : val < 256) :
    asmConfigure reg val = .ok [.configure (BitVec.ofNat 8 reg) (BitVec.ofNat 8 val)] :=
  if_pos ⟨hr, hv⟩

theorem asmTick_of_lt {h v : Nat} (hh : h < 1024) (hv : v < 1024) :
    asmTick h v = .ok [.tick (BitVec.ofNat 10 h) (BitVec.ofNat 10 v)] :=
  if_pos ⟨hh, hv⟩

/-- The row-select addresses of R82 count up from 1. -/
theorem asmBroadcastRow_standard {r : Nat} (hr : r < 8) (v : Nat) :
    asmBroadcastRow Config.standard r v = asmConfigure (r + 1) v := by
  rw [asmBroadcastRow, dif_pos hr]
  interval_cases r <;> rfl

theorem asmBroadcastRow_of_le (cfg : Config) {r : Nat} (hr : 8 ≤ r) (v : Nat) :
    asmBroadcastRow cfg r v = .error .outOfRange :=
  dif_neg (Nat.not_lt.2 hr)

/-- Settles O5: the words by their formats, the numbers by their digits, and each sample line by evaluating the assembler. -/
theorem assembledWords : Obligations.AssembledWords := by
  refine ⟨fun cfg reg val hr hv => ⟨_, asmConfigure_of_lt hr hv, congrArg some (encodeConfigure_eq_or hr hv)⟩,
    fun cfg h v hh hv => ⟨_, asmTick_of_lt hh hv, congrArg some (encodeTick_eq_or hh hv)⟩,
    fun _ => ⟨⟨rfl, rfl⟩, rfl, rfl⟩, fun _ _ _ hout => if_neg hout, fun _ _ _ hout => if_neg hout,
    fun n r => ⟨rfl, rfl, rfl, rfl, rfl, rfl, fun hr => asmBroadcastRow_standard hr n,
      fun hr => asmBroadcastRow_of_le _ hr n, rfl, rfl, rfl, rfl, rfl⟩,
    ⟨_, rfl, by decide⟩, fun n _ => readNumber_toDigits n, ?_⟩
  decide +kernel

end Sys2Proof.Machine
end

section
/-!
PROOFS. What an instruction can do, said once: every command opens with one check (R8, R231, R234), and an instruction that
answers has one of six effects.
-/

namespace Sys2Proof.Machine

/-- Every command of the port opens with the same check. -/
theorem exec_command {i : Instr} (hi : isCommand i = true) (s : State) : ∃ run, exec i s = hostCommand s run := by
  cases i
  case configure => exact ⟨_, rfl⟩
  case render => exact ⟨_, rfl⟩
  case newGame => exact ⟨_, rfl⟩
  case tick => exact ⟨_, rfl⟩
  case illegal => exact ⟨_, rfl⟩
  -- the wire frames are no commands
  all_goals cases hi

/-- The effects an instruction can have. -/
inductive Effect (i : Instr) (s : State) : State → Prop where
  /-- Nothing: not accepted, or a tick in GameOver (R208, R231). -/
  | nothing : Effect i s s
  /-- The line writes of CONFIGURE and RENDER (R105, R110). -/
  | lines (es : List BusEvent) : Effect i s (emit es s)
  /-- A fresh game (R169). -/
  | game (hi : i = .newGame) (hw : s.cfg.wf = true) : Effect i s (startGame s)
  /-- A tick that runs (R190). -/
  | tick (h v : BitVec 10) (hi : i = .tick h v) (hr : s.tickRuns = true) : Effect i s (runTick h v s)
  /-- A fault (R231). -/
  | fault (cause : FaultCause) : Effect i s (raiseFault cause s)
  /-- A stand-alone wire frame at one chip (notes/assumptions/8.md). -/
  | chip (c : Chain) (act : Chip → Chip) (j : Nat) (old : Chip) (hc : s.chain = some c) (hj : c.chips[j]? = some old) :
    Effect i s { s with chain := some { c with chips := c.chips.set j (act old) } }

theorem atLatchedChip_effect (i : Instr) {s t : State} {act : Chip → Chip} (e : atLatchedChip s act = .next t) :
    Effect i s t := by
  obtain ⟨-, c, old, hc, hj, rfl⟩ := atLatchedChip_next e
  exact .chip c act s.latchPos old hc hj

/-- An instruction that answers has one of the six effects. -/
theorem exec_effect {i : Instr} {s t : State} (e : exec i s = .next t) : Effect i s t := by
  cases i
  case configure =>
    obtain ⟨-, ⟨-, rfl⟩ | ⟨-, rfl⟩⟩ := execConfigure_next e
    · exact .lines _
    · exact .nothing
  case render =>
    obtain ⟨-, ⟨-, rfl⟩ | ⟨-, rfl⟩⟩ := execRender_next e
    · exact .lines _
    · exact .nothing
  case newGame =>
    obtain ⟨hw, ⟨-, rfl⟩ | ⟨-, rfl⟩⟩ := hostCommand_runs e
    · exact .game rfl hw
    · exact .nothing
  case tick h v =>
    obtain ⟨-, ⟨rfl, -⟩ | ⟨hr, -, -, rfl⟩ | ⟨-, -, rfl⟩⟩ := execTick_next e
    · exact .nothing
    · exact .tick h v rfl hr
    · exact .fault _
  case illegal =>
    obtain ⟨-, ⟨-, rfl⟩ | ⟨-, rfl⟩⟩ := hostCommand_runs e
    · exact .fault _
    · exact .nothing
  case wReservedD => cases e
  case wReservedE => cases e
  -- every other wire frame is one `atLatchedChip`
  all_goals exact atLatchedChip_effect _ e

end Sys2Proof.Machine
end

section
/-!
PROOFS. The driver, continued (spec/40_driver.md): how many line writes a latch frame, a CONFIGURE and a RENDER are (R106,
R115), the levels between commands (R109), and what the driver's commands leave alone (R105, R114, R232).
-/

namespace Sys2Proof.Machine

/-! ### The shape of the traces (R106, R115) -/

/-- The bits of the wire frames of a latch frame, in the order they are sent. -/
def latchBits (fs : List (Byte × Byte)) : List Bool := fs.flatMap fun f => bitsMsbFirst f.1 ++ bitsMsbFirst f.2

/-- The line writes of a latch frame, given by its bits (R101, R104). -/
def bitFrame (bits : List Bool) : List BusEvent := ⟨.load, false⟩ :: bits.flatMap bitEvents ++ [⟨.load, true⟩]

theorem latchBits_length (fs : List (Byte × Byte)) : (latchBits fs).length = 16 * fs.length := by
  have hframe : fs.map (fun f => (bitsMsbFirst f.1 ++ bitsMsbFirst f.2).length) = fs.map fun _ => 16 :=
    List.map_congr_left fun f _ => length_frameBits f.1 f.2
  rw [latchBits, List.length_flatMap, hframe, List.map_const', List.sum_replicate, smul_eq_mul, Nat.mul_comm]

theorem latchEvents_eq_bitFrame (fs : List (Byte × Byte)) : latchEvents fs = bitFrame (latchBits fs) := by
  rw [latchEvents, bitFrame, latchBits, List.flatMap_assoc]
  simp only [frameEvents_eq]

theorem bitFrame_length (bits : List Bool) : (bitFrame bits).length = 2 + 3 * bits.length := by
  rw [bitFrame, List.length_append, List.length_cons, length_flatMap_bitEvents, List.length_singleton]
  omega

theorem latchEvents_length (fs : List (Byte × Byte)) : (latchEvents fs).length = 2 + 48 * fs.length := by
  rw [latchEvents_eq_bitFrame, bitFrame_length, latchBits_length]
  omega

theorem configureEvents_length (mc : Nat) (reg val : Byte) : (configureEvents mc reg val).length = 2 + 48 * mc := by
  rw [configureEvents, latchEvents_length, List.length_replicate]

/-- Settles O13: a CONFIGURE is one latch frame of the same wire frame. -/
theorem configureTraceShape : Obligations.ConfigureTraceShape := by
  intro reg val s hw ha
  refine ⟨_, _, execConfigure_eq reg val hw ha, emit_bus _ _, configureEvents_length _ _ _, ?_, frameEvents_length _ _⟩
  rw [configureEvents, latchEvents, List.flatMap_replicate]

/-- Bits write CLK to either level once each. -/
theorem count_clk_flatMap_bitEvents (b : Level) (bits : List Bool) :
    (bits.flatMap bitEvents).count ⟨.clk, b⟩ = bits.length := by
  induction bits with
  | nil => rfl
  | cons bit bits ih => cases b <;> simp [bitEvents, ih]

/-- Bits do not write LOAD. -/
theorem count_load_flatMap_bitEvents (b : Level) (bits : List Bool) :
    (bits.flatMap bitEvents).count ⟨.load, b⟩ = 0 := by
  induction bits with
  | nil => rfl
  | cons bit bits ih => simp [bitEvents, ih]

theorem count_clk_bitFrame (b : Level) (bits : List Bool) : (bitFrame bits).count ⟨.clk, b⟩ = bits.length := by
  simp [bitFrame, count_clk_flatMap_bitEvents]

theorem count_load_bitFrame (b : Level) (bits : List Bool) : (bitFrame bits).count ⟨.load, b⟩ = 1 := by
  cases b <;> simp [bitFrame, count_load_flatMap_bitEvents]

/-- The bits of the eight rows of a RENDER (R110 to R113). -/
def renderBits (cfg : Config) (pix : Memory) : List (List Bool) := rowOrder.map fun r => latchBits (rowFrames cfg pix r)

theorem renderEvents_eq_bitFrames (cfg : Config) (pix : Memory) :
    renderEvents cfg pix = (renderBits cfg pix).flatMap bitFrame := by
  rw [renderBits, List.flatMap_map]
  exact List.flatMap_congr fun r _ => latchEvents_eq_bitFrame (rowFrames cfg pix r)

theorem renderBits_row_length {cfg : Config} {pix : Memory} {bits : List Bool} (h : bits ∈ renderBits cfg pix) :
    bits.length = 16 * cfg.mc := by
  obtain ⟨r, -, rfl⟩ := List.mem_map.1 h
  rw [latchBits_length, rowFrames, List.length_map, List.length_reverse, List.length_range]

/-- What every row of a RENDER counts alike, the RENDER counts eight times. -/
theorem sum_renderBits {cfg : Config} {pix : Memory} {k : List Bool → Nat} {n : Nat}
    (h : ∀ bits ∈ renderBits cfg pix, k bits = n) : ((renderBits cfg pix).map k).sum = 8 * n := by
  rw [List.map_congr_left h, List.map_const', List.sum_replicate, smul_eq_mul]
  rfl

theorem count_renderEvents {cfg : Config} {pix : Memory} {e : BusEvent} {n : Nat}
    (h : ∀ bits ∈ renderBits cfg pix, (bitFrame bits).count e = n) : (renderEvents cfg pix).count e = 8 * n := by
  rw [renderEvents_eq_bitFrames, List.count_flatMap]
  exact sum_renderBits h

theorem count_clk_renderEvents (cfg : Config) (pix : Memory) (b : Level) :
    (renderEvents cfg pix).count ⟨.clk, b⟩ = 128 * cfg.mc := by
  rw [count_renderEvents fun bits hb => (count_clk_bitFrame b bits).trans (renderBits_row_length hb)]
  omega

/-- Settles O15: a RENDER is the latch frames of its eight rows, counted bit by bit. -/
theorem renderTraceShape : Obligations.RenderTraceShape := by
  intro s hw ha
  refine ⟨_, renderEvents s.cfg s.pix, execRender_eq hw ha, emit_bus _ _, ?_,
    ⟨renderBits s.cfg s.pix, rfl, fun bits hb => renderBits_row_length hb, renderEvents_eq_bitFrames _ _⟩,
    count_renderEvents fun bits _ => count_load_bitFrame false bits,
    count_renderEvents fun bits _ => count_load_bitFrame true bits,
    count_clk_renderEvents _ _ true, count_clk_renderEvents _ _ false⟩
  rw [renderEvents_eq_bitFrames, List.length_flatMap]
  refine sum_renderBits fun bits hb => ?_
  rw [bitFrame_length, renderBits_row_length hb]
  omega

/-! ### The levels between commands (R109) -/

/-- A command of a faulted block answers the state it had. -/
theorem eq_of_exec_command_faulted {i : Instr} {s t : State} (hi : isCommand i = true) (hf : s.fault.isSome = true)
    (e : exec i s = .next t) : t = s := by
  obtain ⟨run, h⟩ := exec_command hi s
  obtain ⟨hw, -⟩ := hostCommand_next (h.symm.trans e)
  cases (exec_command_faulted hi hw hf).symm.trans e
  rfl

/-- Settles O16: a latch frame sets the levels, and the other commands write no line. -/
theorem lineLevelsBetweenCommands : Obligations.LineLevelsBetweenCommands := by
  refine ⟨fun reg val s t ha e => ?_, fun s t ha e => ?_, fun i s t hi e hsilent => ?_⟩
  · obtain ⟨hw, ⟨-, rfl⟩ | ⟨hna, -⟩⟩ := execConfigure_next e
    · rw [emit_configureEvents_eq reg val hw]
      exact ⟨rfl, rfl, rfl⟩
    · exact absurd (ha.symm.trans hna) (by decide)
  · obtain ⟨hw, ⟨-, rfl⟩ | ⟨hna, -⟩⟩ := execRender_next e
    · rw [emit_renderEvents_eq hw]
      exact ⟨rfl, rfl, rfl⟩
    · exact absurd (ha.symm.trans hna) (by decide)
  · obtain rfl | ⟨h, v, rfl⟩ | ⟨w, rfl⟩ | hf := hsilent
    · exact execNewGame_writesNoLine e
    · exact execTick_writesNoLine e
    · exact execIllegal_writesNoLine (w := w) e
    · rw [eq_of_exec_command_faulted hi hf e]
      exact writesNoLine_refl s

/-! ### What the driver's commands leave alone (R105, R114, R232) -/

/-- CONFIGURE, RENDER and ILLEGAL are a run of line writes, or record IllegalCommand, or do nothing. -/
theorem exec_driver_next {i : Instr} {s t : State}
    (hi : i = .render ∨ (∃ reg val, i = .configure reg val) ∨ ∃ w, i = .illegal w) (e : exec i s = .next t) :
    (∃ es, t = emit es s) ∨ (∃ w, i = .illegal w) ∧ t = raiseFault .illegalCommand s ∨ t = s := by
  obtain rfl | ⟨reg, val, rfl⟩ | ⟨w, rfl⟩ := hi
  · obtain ⟨-, ⟨-, h⟩ | ⟨-, h⟩⟩ := execRender_next e
    · exact .inl ⟨_, h⟩
    · exact .inr (.inr h)
  · obtain ⟨-, ⟨-, h⟩ | ⟨-, h⟩⟩ := execConfigure_next e
    · exact .inl ⟨_, h⟩
    · exact .inr (.inr h)
  · obtain ⟨-, ⟨-, h⟩ | ⟨-, h⟩⟩ := hostCommand_runs e
    · exact .inr (.inl ⟨⟨w, rfl⟩, h⟩)
    · exact .inr (.inr h)

/-- Settles O18: line writes reach the lines, the bus trace and the chain, and the fault only FAULT. -/
theorem driverCommandsKeepEngineState : Obligations.DriverCommandsKeepEngineState := by
  intro i s t hi e
  obtain ⟨es, rfl⟩ | ⟨hw, rfl⟩ | rfl := exec_driver_next hi e
  · rw [emit_eq]
    exact ⟨rfl, rfl, rfl, rfl, rfl, rfl, rfl, fun _ => rfl, rfl, rfl, rfl, rfl, rfl, rfl, rfl, rfl, rfl, .inl rfl⟩
  · exact ⟨rfl, rfl, rfl, rfl, rfl, rfl, rfl, fun _ => rfl, rfl, rfl, rfl, rfl, rfl, rfl, rfl, rfl, rfl,
      .inr ⟨hw, rfl⟩⟩
  · exact ⟨rfl, rfl, rfl, rfl, rfl, rfl, rfl, fun _ => rfl, rfl, rfl, rfl, rfl, rfl, rfl, rfl, rfl, rfl, .inl rfl⟩

end Sys2Proof.Machine
end

section
/-!
PROOFS. The display chain (spec/41_display_chain.md): shift (R133), latch (R134 to R137), a latch frame as one register
write at every chip (R141, R142), and the wire frames on their own (notes/assumptions/8.md).
-/

namespace Sys2Proof.Machine

/-! ### Edges (R132, R133) -/

/-- Settles O22: without a rising edge of CLK or LOAD only the kept level is written. -/
theorem otherWritesOnlyUpdateKeptLevels : Obligations.OtherWritesOnlyUpdateKeptLevels := by
  rintro c ⟨line, level⟩ hno
  cases line with
  | din => rfl
  | clk =>
    have hedge : (level && !c.clk) = false := by
      cases level <;> simp_all
    simp [Chain.see, hedge]
  | load =>
    have hedge : (level && !c.load) = false := by
      cases level <;> simp_all
    simp [Chain.see, hedge]

/-- A CLK rising edge shifts the chain (R133). -/
theorem see_clk_rising {c : Chain} (h : c.clk = false) :
    c.see ⟨.clk, true⟩ = some { c with clk := true, chips := shiftIn c.din c.chips } := by
  simp [Chain.see, h]

/-- A LOAD rising edge latches the chain (R134). -/
theorem see_load_rising {c : Chain} (h : c.load = false) :
    c.see ⟨.load, true⟩ = (latchAll c.chips).map fun chips => { c with load := true, chips := chips } := by
  simp only [Chain.see, h]
  cases latchAll c.chips <;> rfl

/-- Settles O21: a position shifts in DIN, or the top bit of the position before it. -/
theorem chainShiftsOnClockEdge : Obligations.ChainShiftsOnClockEdge := by
  intro c hc
  refine ⟨_, see_clk_rising hc, shiftIn_length _ _, rfl, rfl, rfl, fun j old hj => ?_⟩
  refine ⟨_, by rw [shiftIn_getElem?, hj, Option.map_some], rfl, fun k hk => ?_, fun h0 => ?_, fun before h0 hb => ?_⟩
  · have hlt : k + 1 < 16 := by omega
    rw [BitVec.getLsbD_shiftConcat, decide_eq_true hlt, if_neg (Nat.succ_ne_zero k)]
    rfl
  · rw [BitVec.getLsbD_shiftConcat, if_pos h0]
    rfl
  · rw [BitVec.getLsbD_shiftConcat, if_neg (by omega : j ≠ 0), hb, ← BitVec.msb_eq_getLsbD_last]
    rfl

/-! ### The latch (R134 to R137) -/

/-- The addresses R137 leaves undefined. -/
abbrev undefinedAddress (a : BitVec 4) : Prop := a = 0xD#4 ∨ a = 0xE#4

theorem address_ne_zero_of_undefined {a : BitVec 4} (h : undefinedAddress a) : a ≠ 0x0#4 := by
  obtain rfl | rfl := h <;> decide

theorem regWrite_eq_none {c : Chip} {a : BitVec 4} {d : Byte} : c.regWrite a d = none ↔ undefinedAddress a := by
  obtain ⟨rfl, e⟩ | ⟨ha, e⟩ | ⟨-, hs, e⟩ := regWrite_cases c a d
  · simp [e, undefinedAddress]
  · simp [e, undefinedAddress, ha]
  · have hn : ¬undefinedAddress a := fun hu => by
      rw [fileSlot_eq_none.2 (.inr hu)] at hs
      cases hs
    simp [e, hn]

/-- A register read after a register write that answers: the byte written at its address, unless that is the No-Op's. -/
theorem reg_of_regWrite {c c' : Chip} {a : BitVec 4} {d : Byte} (h : c.regWrite a d = some c') :
    c'.sr = c.sr ∧ ∀ b : BitVec 4, c'.reg b = if b = a ∧ b ≠ 0x0#4 then some d else c.reg b := by
  obtain ⟨rfl, e⟩ | ⟨-, e⟩ | ⟨h0, hs, e⟩ := regWrite_cases c a d
  · cases e.symm.trans h
    refine ⟨rfl, fun b => ?_⟩
    rw [if_neg fun hb => hb.2 hb.1]
  · cases e.symm.trans h
  · cases e.symm.trans h
    obtain ⟨i, hi⟩ := Option.isSome_iff_exists.1 hs
    refine ⟨put_sr c a d, fun b => ?_⟩
    rw [reg_put, hi, Option.map_some]
    refine if_congr ⟨fun hb => ⟨hb, hb ▸ h0⟩, fun hb => hb.1⟩ rfl rfl

/-- Where the chain latches, every position does. -/
theorem exists_latched {cs cs' : List Chip} (h : latchAll cs = some cs') {j : Nat} {old : Chip}
    (hj : cs[j]? = some old) : ∃ new : Chip, cs'[j]? = some new ∧ old.latch = some new := by
  have hlt : j < cs'.length := by
    rw [latchAll_length h]
    exact (List.getElem?_eq_some_iff.1 hj).1
  have hnew := latchAll_getElem? h j
  rw [hj, Option.bind_some, List.getElem?_eq_getElem hlt] at hnew
  exact ⟨_, List.getElem?_eq_getElem hlt, hnew.symm⟩

/-- Settles O23: every position performs its own register write, and the chain has none where one position has none. -/
theorem latchWritesOneRegisterPerChip : Obligations.LatchWritesOneRegisterPerChip := by
  refine ⟨fun chip a => reg_eq_none, fun c hc => ⟨?_, fun c' h => ?_⟩⟩
  · rw [see_load_rising hc, Option.map_eq_none_iff, latchAll_eq_none]
    simp only [Chip.latch, regWrite_eq_none]
    rfl
  · rw [see_load_rising hc, Option.map_eq_some_iff] at h
    obtain ⟨chips, hl, rfl⟩ := h
    refine ⟨latchAll_length hl, rfl, rfl, rfl, fun j old hj => ?_⟩
    obtain ⟨new, hnew, hlatch⟩ := exists_latched hl hj
    exact ⟨new, hnew, reg_of_regWrite hlatch⟩

/-! ### The bits of a latch frame (R141) -/

/-- The bits of a word, bit 15 first, as they are sent (R103). -/
def wordBits (w : BitVec 16) : List Bool := (List.range 16).reverse.map w.getLsbD

theorem wordBits_injective : Function.Injective wordBits := by
  intro w w' e
  refine BitVec.eq_of_getLsbD_eq fun i hi => List.map_inj_left.1 e i ?_
  simpa using hi

theorem frameEvents_eq_wordBits (a d : Byte) : frameEvents a d = (wordBits (a ++ d)).flatMap bitEvents := by
  rw [wordBits, List.flatMap_map]
  rfl

/-- One shift: the top bit leaves, the new bit enters at the end. -/
theorem msb_cons_wordBits_shiftConcat (w : BitVec 16) (b : Bool) :
    w.msb :: wordBits (w.shiftConcat b) = wordBits w ++ [b] := by
  have hlist : (List.range 16).reverse = [15, 14, 13, 12, 11, 10, 9, 8, 7, 6, 5, 4, 3, 2, 1, 0] := by decide
  simp [wordBits, hlist, BitVec.msb_eq_getLsbD_last]

/-- The bits that leave a shift register while others enter it. -/
def bitsOut : BitVec 16 → List Bool → List Bool
  | _, [] => []
  | sr, b :: bs => sr.msb :: bitsOut (sr.shiftConcat b) bs

/-- No bit is lost: what left and what is held are what was held and what entered. -/
theorem bitsOut_append_wordBits (sr : BitVec 16) (bs : List Bool) :
    bitsOut sr bs ++ wordBits (bs.foldl BitVec.shiftConcat sr) = wordBits sr ++ bs := by
  induction bs generalizing sr with
  | nil => rw [List.append_nil]; rfl
  | cons b bs ih =>
    rw [bitsOut, List.foldl_cons, List.cons_append, ih, ← List.cons_append, msb_cons_wordBits_shiftConcat,
      List.append_assoc]
    rfl

theorem bitsOut_length (sr : BitVec 16) (bs : List Bool) : (bitsOut sr bs).length = bs.length := by
  induction bs generalizing sr with
  | nil => rfl
  | cons b bs ih => exact congrArg (· + 1) (ih _)

/-- Sixteen bits replace the word in a shift register, and that word leaves it. -/
theorem wordBits_replace (w sr : BitVec 16) :
    bitsOut sr (wordBits w) = wordBits sr ∧ (wordBits w).foldl BitVec.shiftConcat sr = w := by
  obtain ⟨hout, hin⟩ := List.append_inj (bitsOut_append_wordBits sr (wordBits w)) (bitsOut_length _ _)
  exact ⟨hout, wordBits_injective hin⟩

/-- Bits shifted into the chain one after the other (R133). -/
def shiftBits (bs : List Bool) (cs : List Chip) : List Chip := bs.foldl (fun cs b => shiftIn b cs) cs

/-- The first position takes the bits, the others take what leaves it. -/
theorem shiftBits_cons (bs : List Bool) (c : Chip) (cs : List Chip) :
    shiftBits bs (c :: cs) = { c with sr := bs.foldl BitVec.shiftConcat c.sr } :: shiftBits (bitsOut c.sr bs) cs := by
  induction bs generalizing c cs with
  | nil => rfl
  | cons b bs ih => exact ih _ _

/-- A shift leaves every register file as it is. -/
theorem shiftIn_regs (b : Level) (cs : List Chip) : (shiftIn b cs).map Chip.regs = cs.map Chip.regs := by
  induction cs generalizing b with
  | nil => rfl
  | cons c cs ih => exact congrArg (c.regs :: ·) (ih _)

theorem shiftBits_regs (bs : List Bool) (cs : List Chip) : (shiftBits bs cs).map Chip.regs = cs.map Chip.regs := by
  induction bs generalizing cs with
  | nil => rfl
  | cons b bs ih => exact (ih _).trans (shiftIn_regs b cs)

/-- A word sent in full moves every word one position on; the last one leaves the chain (R141). -/
theorem shiftBits_wordBits_sr (w : BitVec 16) (cs : List Chip) :
    (shiftBits (wordBits w) cs).map Chip.sr = (w :: cs.map Chip.sr).take cs.length := by
  induction cs generalizing w with
  | nil =>
    have hnil : ∀ bs : List Bool, shiftBits bs [] = [] := List.foldl_fixed' fun _ => rfl
    rw [hnil]
    rfl
  | cons c cs ih =>
    obtain ⟨hout, hin⟩ := wordBits_replace w c.sr
    rw [shiftBits_cons, hin, hout, List.map_cons, ih]
    rfl

/-- One bit as the chain sees it (R101): a rising edge of CLK with the bit on DIN. -/
theorem watch_bitEvents (c : Chain) (b : Bool) :
    watch (some c) (bitEvents b) = some { c with clk := true, din := b, chips := shiftIn b c.chips } := by
  simp [bitEvents, Chain.see]

/-- Bits as the chain sees them: shifted in, LOAD and the register files untouched. -/
theorem watch_bits (bs : List Bool) (c : Chain) :
    ∃ c' : Chain, watch (some c) (bs.flatMap bitEvents) = some c' ∧ c'.load = c.load ∧
      c'.chips = shiftBits bs c.chips := by
  induction bs generalizing c with
  | nil => exact ⟨c, rfl, rfl, rfl⟩
  | cons b bs ih =>
    rw [List.flatMap_cons, watch_append, watch_bitEvents]
    exact ih _

/-- The words of wire frames (R74). -/
def frameWords (fs : List (Byte × Byte)) : List (BitVec 16) := fs.map fun f => f.1 ++ f.2

/-- Wire frames as the chain sees them: the last one nearest the block, then the ones before it, then what the chain held
(R141). -/
theorem watch_frames (fs : List (Byte × Byte)) (c : Chain) :
    ∃ c' : Chain, watch (some c) (fs.flatMap fun f => frameEvents f.1 f.2) = some c' ∧ c'.load = c.load ∧
      c'.chips.map Chip.regs = c.chips.map Chip.regs ∧
      c'.chips.map Chip.sr = ((frameWords fs).reverse ++ c.chips.map Chip.sr).take c.chips.length := by
  induction fs generalizing c with
  | nil => exact ⟨c, rfl, rfl, rfl, by simp [frameWords]⟩
  | cons f fs ih =>
    obtain ⟨c₁, h₁, hload₁, hchips₁⟩ := watch_bits (wordBits (f.1 ++ f.2)) c
    obtain ⟨c', h', hload', hregs', hsr'⟩ := ih c₁
    have hregs₁ := shiftBits_regs (wordBits (f.1 ++ f.2)) c.chips
    have hsr₁ := shiftBits_wordBits_sr (f.1 ++ f.2) c.chips
    have hlen₁ := congrArg List.length hregs₁
    rw [← hchips₁] at hregs₁ hsr₁ hlen₁
    simp only [List.length_map] at hlen₁
    refine ⟨c', ?_, hload'.trans hload₁, hregs'.trans hregs₁, ?_⟩
    · rw [List.flatMap_cons, watch_append, frameEvents_eq_wordBits, h₁, h']
    · rw [hsr', hsr₁, hlen₁]
      simp [frameWords, List.take_append, List.take_take]

/-- Between LOAD 0 and LOAD 1 of a latch frame with one wire frame for every chip: each chip holds its own frame, and its
registers are as before (R141). -/
theorem watch_latchBegin_frames {fs : List (Byte × Byte)} {c : Chain} (hlen : fs.length = c.chips.length) :
    ∃ c' : Chain, watch (some c) (⟨.load, false⟩ :: fs.flatMap fun f => frameEvents f.1 f.2) = some c' ∧
      c'.load = false ∧ c'.chips.map Chip.regs = c.chips.map Chip.regs ∧
      c'.chips.map Chip.sr = (frameWords fs).reverse := by
  have hfall : c.see ⟨.load, false⟩ = some { c with load := false } := rfl
  obtain ⟨c', h, hload, hregs, hsr⟩ := watch_frames fs { c with load := false }
  refine ⟨c', by rw [watch_cons, Option.bind_some, hfall, h], hload, hregs, ?_⟩
  rw [hsr, ← hlen, List.take_left' (by simp [frameWords])]

/-- Chips with the same register files differ in their shift registers alone. -/
theorem getElem?_of_map_regs {cs cs' : List Chip} (h : cs'.map Chip.regs = cs.map Chip.regs) {j : Nat} {old : Chip}
    (hj : cs[j]? = some old) : ∃ new : Chip, cs'[j]? = some new ∧ new = { old with sr := new.sr } := by
  have hreg := congrArg (·[j]?) h
  simp only [List.getElem?_map, hj, Option.map_some, Option.map_eq_some_iff] at hreg
  obtain ⟨⟨sr, regs⟩, hnew, rfl⟩ := hreg
  exact ⟨_, hnew, rfl⟩

/-- Settles O24: the frames stand in the chain in the reverse of their order. -/
theorem framesLandInReverseOrder : Obligations.FramesLandInReverseOrder := by
  intro c fs hlen
  obtain ⟨c', h, hload, hregs, hsr⟩ := watch_latchBegin_frames hlen
  exact ⟨c', h, hload, by rw [hsr, frameWords, List.map_reverse], fun j old hj => getElem?_of_map_regs hregs hj⟩

/-! ### Register writes at every chip (R142, R143) -/

/-- From `c` to `c'` every chip `j` has taken `d j` at the address, unless it is the No-Op's (R136), and nothing else. -/
def WritesRegister (a : BitVec 4) (d : Nat → Byte) (c c' : Chain) : Prop :=
  c'.chips.length = c.chips.length ∧
    ∀ (j : Nat) (old : Chip), c.chips[j]? = some old → ∃ new : Chip, c'.chips[j]? = some new ∧
      ∀ b : BitVec 4, new.reg b = if b = a ∧ b ≠ 0x0#4 then some (d j) else old.reg b

/-- A latch frame as the chain sees it: every chip latches its own frame (R104, R134). -/
theorem watch_latchEvents {fs : List (Byte × Byte)} {c : Chain} (hlen : fs.length = c.chips.length) :
    ∃ c₁ : Chain, c₁.chips.map Chip.regs = c.chips.map Chip.regs ∧ c₁.chips.map Chip.sr = (frameWords fs).reverse ∧
      watch (some c) (latchEvents fs) =
        (latchAll c₁.chips).map fun chips => { c₁ with load := true, chips := chips } := by
  obtain ⟨c₁, h, hload, hregs, hsr⟩ := watch_latchBegin_frames hlen
  refine ⟨c₁, hregs, hsr, ?_⟩
  rw [latchEvents, watch_append, h, ← see_load_rising hload]
  rfl

/-- The wire frames that bring the byte `d m` for the address byte `a` to every chip `m`: the last chip's first (R112). -/
def framesTo (a : Byte) (d : Nat → Byte) (n : Nat) : List (Byte × Byte) :=
  (List.range n).reverse.map fun m => (a, d m)

theorem framesTo_length (a : Byte) (d : Nat → Byte) (n : Nat) : (framesTo a d n).length = n := by
  simp [framesTo]

theorem frameWords_framesTo (a : Byte) (d : Nat → Byte) (n : Nat) :
    (frameWords (framesTo a d n)).reverse = (List.range n).map fun m => a ++ d m := by
  simp [frameWords, framesTo, List.map_reverse]

/-- A chip that holds its frame latches that frame's byte at its address (R83, R134). -/
theorem latch_of_framesTo {a : Byte} {d : Nat → Byte} {n j : Nat} {cs : List Chip} {chip : Chip}
    (hsr : cs.map Chip.sr = (frameWords (framesTo a d n)).reverse) (hj : cs[j]? = some chip) :
    chip.latch = chip.regWrite (a.extractLsb' 0 4) (d j) := by
  have hlen : cs.length = n := by simpa [frameWords, framesTo_length] using congrArg List.length hsr
  have hlt : j < n := hlen ▸ (List.getElem?_eq_some_iff.1 hj).1
  have hword := congrArg (·[j]?) hsr
  simp only [frameWords_framesTo, List.getElem?_map, hj, Option.map_some] at hword
  rw [List.getElem?_range hlt] at hword
  rw [Chip.latch, show chip.sr = a ++ d j from Option.some.inj hword, frameAddr_append, frameData_append]

/-- A latch frame to one address with a meaning is one register write at every chip (R141, R142). -/
theorem watch_latchEvents_framesTo {a : Byte} (d : Nat → Byte) {c : Chain}
    (ha : ¬undefinedAddress (a.extractLsb' 0 4)) :
    ∃ c' : Chain, watch (some c) (latchEvents (framesTo a d c.chips.length)) = some c' ∧
      WritesRegister (a.extractLsb' 0 4) d c c' := by
  obtain ⟨c₁, hregs, hsr, h⟩ := watch_latchEvents (framesTo_length a d c.chips.length)
  have hlen₁ : c₁.chips.length = c.chips.length := by simpa using congrArg List.length hregs
  cases hall : latchAll c₁.chips with
  | none =>
    obtain ⟨chip, hmem, hnone⟩ := latchAll_eq_none.1 hall
    obtain ⟨j, hj⟩ := List.mem_iff_getElem?.1 hmem
    rw [latch_of_framesTo hsr hj, regWrite_eq_none] at hnone
    exact absurd hnone ha
  | some chips =>
    refine ⟨{ c₁ with load := true, chips := chips }, by rw [h, hall]; rfl, (latchAll_length hall).trans hlen₁,
      fun j old hj => ?_⟩
    obtain ⟨mid, hmid, hsame⟩ := getElem?_of_map_regs hregs hj
    obtain ⟨new, hnew, hwrite⟩ := exists_latched hall hmid
    rw [latch_of_framesTo hsr hmid] at hwrite
    refine ⟨new, hnew, fun b => ?_⟩
    rw [(reg_of_regWrite hwrite).2 b, show mid.reg b = old.reg b by rw [hsame]; rfl]

/-- A latch frame to an undefined address refuses the chain (R137). -/
theorem watch_latchEvents_undefined {a : Byte} (d : Nat → Byte) {c : Chain} (hn : 0 < c.chips.length)
    (ha : undefinedAddress (a.extractLsb' 0 4)) :
    watch (some c) (latchEvents (framesTo a d c.chips.length)) = none := by
  obtain ⟨c₁, hregs, hsr, h⟩ := watch_latchEvents (framesTo_length a d c.chips.length)
  have hlen₁ : c₁.chips.length = c.chips.length := by simpa using congrArg List.length hregs
  have h0 := List.getElem?_eq_getElem (hlen₁.symm ▸ hn : 0 < c₁.chips.length)
  have hnone : (c₁.chips[0]).latch = none := (latch_of_framesTo hsr h0).trans (regWrite_eq_none.2 ha)
  rw [h, latchAll_eq_none.2 ⟨_, List.getElem_mem _, hnone⟩]
  rfl

/-! ### CONFIGURE at the chips (R142) -/

theorem configureEvents_eq_framesTo (mc : Nat) (reg val : Byte) :
    configureEvents mc reg val = latchEvents (framesTo reg (fun _ => val) mc) := by
  rw [configureEvents, framesTo, List.map_const', List.length_reverse, List.length_range]

theorem chainLen_of_wf {cfg : Config} (h : cfg.wf = true) : cfg.chainLen = cfg.mc := by
  simp only [Config.wf, Bool.and_eq_true, decide_eq_true_eq] at h
  exact h.2

/-- The line writes of a CONFIGURE write its register at every chip (R142). -/
theorem emit_configureEvents_chain {s : State} {c : Chain} {reg : Byte} (val : Byte) (hw : s.cfg.wf = true)
    (hc : s.chain = some c) (hlen : c.chips.length = s.cfg.chainLen) (hr : ¬undefinedAddress (reg.extractLsb' 0 4)) :
    ∃ c' : Chain, (emit (configureEvents s.cfg.mc reg val) s).chain = some c' ∧ c'.chips.length = s.cfg.mc ∧
      WritesRegister (reg.extractLsb' 0 4) (fun _ => val) c c' := by
  have hmc := hlen.trans (chainLen_of_wf hw)
  obtain ⟨c', h, hwrites⟩ := watch_latchEvents_framesTo (fun _ => val) (c := c) hr
  refine ⟨c', ?_, hwrites.1.trans hmc, hwrites⟩
  rw [emit_chain, hc, configureEvents_eq_framesTo, ← hmc, h]

/-- Settles O25: the latch frame of a CONFIGURE is one register write at every chip. -/
theorem configureReachesEveryChip : Obligations.ConfigureReachesEveryChip := by
  intro reg val s c hw ha hc hlen h0 hD hE
  obtain ⟨c', hchain, hlen', -, hwrites⟩ :=
    emit_configureEvents_chain (reg := reg) val hw hc hlen fun hu => hu.elim hD hE
  refine ⟨_, c', execConfigure_eq reg val hw ha, hchain, hlen', fun j old hj => ?_⟩
  obtain ⟨new, hnew, hreg⟩ := hwrites j old hj
  have hown : new.reg (reg.extractLsb' 0 4) = some val := by rw [hreg, if_pos ⟨rfl, h0⟩]
  refine ⟨new, hnew, hown, fun a hne => ?_, fun r hr => ?_⟩
  · rw [hreg, if_neg fun h => hne h.1]
  · rw [Chip.named, chipAddress, hr, hown]

/-- Settles O28: at the No-Op address the latch frame's register write changes nothing. -/
theorem noOpConfigureChangesNoRegister : Obligations.NoOpConfigureChangesNoRegister := by
  intro reg val s c hw ha hc hlen h0
  have hdef : ¬undefinedAddress (reg.extractLsb' 0 4) := fun hu => address_ne_zero_of_undefined hu h0
  obtain ⟨c', hchain, -, -, hwrites⟩ := emit_configureEvents_chain val hw hc hlen hdef
  refine ⟨_, c', execConfigure_eq reg val hw ha, hchain, ?_, fun j old hj => ?_⟩
  · rw [emit_bus, List.length_append, configureEvents_length]
  · obtain ⟨new, hnew, hreg⟩ := hwrites j old hj
    refine ⟨new, hnew, fun a => ?_⟩
    rw [hreg, if_neg fun h => h.2 (h.1.trans h0)]

/-! ### An undefined address (R84, R137) -/

theorem isCommand_decodeCommand (w : BitVec 32) : isCommand (decodeCommand w) = true := by
  rw [isCommand, commandWord, (encode_decodeCommand w).1]
  rfl

theorem isCommand_decodeFrame (w : BitVec 16) : isCommand (decodeFrame w) = false := by
  rw [isCommand, commandWord, encode_decodeFrame]
  rfl

/-- A command leaves a refused chain refused: whatever it writes, nothing sees it (R137). -/
theorem exec_keeps_refused_chain {i : Instr} {s t : State} (hi : isCommand i = true) (hc : s.chain = none)
    (e : exec i s = .next t) : t.chain = none := by
  obtain ⟨es, -, h⟩ := chainSeesWritesInBusOrder i s t hi e
  rw [h, hc, watch_none]

/-- No step gives a refused chain a state again (R137). -/
theorem step_keeps_refused_chain {s t : State} (hc : s.chain = none) (e : step s = .next t) : t.chain = none := by
  obtain ⟨-, ⟨n, -, hreset⟩ | ⟨-, -, chip, hchip, -⟩ | ⟨-, -, -, rfl⟩ | ⟨-, -, -, w, rest, -, he⟩⟩ := step_next e
  · obtain ⟨-, rfl⟩ | ⟨-, -, w, rest, u, -, -, rfl⟩ := stepReset_next hreset
    · rw [(applyReset_frame s).2.1, hc]
    · rw [(cutByReset_frame n s u).2.1, hc, watch_none]
  · rw [latchedChip, hc] at hchip
    cases hchip
  · exact hc
  · exact exec_keeps_refused_chain (s := takeCommand s) (isCommand_decodeCommand w) hc he

/-- Settles O29: the latch frame refuses the chain, and the block has written its lines all the same. -/
theorem undefinedAddressRefusesOnlyTheChain : Obligations.UndefinedAddressRefusesOnlyTheChain := by
  refine ⟨fun reg val s c hw ha hc hlen hu => ?_, fun s t hc e => step_keeps_refused_chain hc e⟩
  have hmc := hlen.trans (chainLen_of_wf hw)
  refine ⟨_, execConfigure_eq reg val hw ha, ?_, ?_, ?_⟩
  · rw [emit_chain, hc, configureEvents_eq_framesTo, ← hmc]
    exact watch_latchEvents_undefined _ (hmc.symm ▸ mc_pos_of_wf hw) hu
  · rw [emit_eq]
    exact ha
  · rw [emit_bus, List.length_append, configureEvents_length]

/-! ### Several register writes, RENDER (R143) -/

/-- From `c` to `c'` every chip has taken each of the writes, an address with a byte for every chip, and nothing else. -/
def WritesRegisters (ws : List (BitVec 4 × (Nat → Byte))) (c c' : Chain) : Prop :=
  c'.chips.length = c.chips.length ∧
    ∀ (j : Nat) (old : Chip), c.chips[j]? = some old → ∃ new : Chip, c'.chips[j]? = some new ∧
      (∀ w ∈ ws, new.reg w.1 = some (w.2 j)) ∧ ∀ b : BitVec 4, b ∉ ws.map Prod.fst → new.reg b = old.reg b

theorem writesRegisters_nil (c : Chain) : WritesRegisters [] c c :=
  ⟨rfl, fun _ old hj => ⟨old, hj, nofun, fun _ _ => rfl⟩⟩

/-- One register write and then others, to other addresses. -/
theorem WritesRegister.cons {a : BitVec 4} {d : Nat → Byte} {ws : List (BitVec 4 × (Nat → Byte))} {c c₁ c' : Chain}
    (h : WritesRegister a d c c₁) (hs : WritesRegisters ws c₁ c') (h0 : a ≠ 0x0#4) (hnew : a ∉ ws.map Prod.fst) :
    WritesRegisters ((a, d) :: ws) c c' := by
  refine ⟨hs.1.trans h.1, fun j old hj => ?_⟩
  obtain ⟨mid, hmid, hreg⟩ := h.2 j old hj
  obtain ⟨new, hj', hwritten, hkept⟩ := hs.2 j mid hmid
  refine ⟨new, hj', List.forall_mem_cons.2 ⟨?_, hwritten⟩, fun b hb => ?_⟩
  · rw [hkept a hnew, hreg, if_pos ⟨rfl, h0⟩]
  · rw [List.map_cons, List.mem_cons, not_or] at hb
    rw [hkept b hb.2, hreg, if_neg fun e => hb.1 e.1]

/-- An address of the register file is neither the No-Op's nor undefined. -/
theorem address_of_slot {a : BitVec 4} (h : (fileSlot a).isSome = true) : a ≠ 0x0#4 ∧ ¬undefinedAddress a := by
  have hn : fileSlot a ≠ none := Option.isSome_iff_ne_none.1 h
  rw [Ne, fileSlot_eq_none, not_or] at hn
  exact hn

/-- The register writes of the rows of a RENDER. -/
def rowWrites (cfg : Config) (pix : Memory) (rs : List (BitVec 3)) : List (BitVec 4 × (Nat → Byte)) :=
  rs.map fun r => (chipAddress cfg (.digit r), fun j => readPix cfg.mc pix r j)

theorem rowWrites_addresses (cfg : Config) (pix : Memory) (rs : List (BitVec 3)) :
    (rowWrites cfg pix rs).map Prod.fst = rs.map fun r => chipAddress cfg (.digit r) := by
  rw [rowWrites, List.map_map]
  rfl

/-- Rows sent one after the other, to addresses of their own, are register writes at every chip (R143). -/
theorem watch_rows {cfg : Config} (pix : Memory) {rs : List (BitVec 3)} {c : Chain} (hlen : c.chips.length = cfg.mc)
    (hslot : ∀ r : BitVec 3, (fileSlot (chipAddress cfg (.digit r))).isSome = true)
    (hinj : ∀ r r' : BitVec 3, chipAddress cfg (.digit r) = chipAddress cfg (.digit r') → r = r') (hn : rs.Nodup) :
    ∃ c' : Chain, watch (some c) (rs.flatMap fun r => latchEvents (rowFrames cfg pix r)) = some c' ∧
      WritesRegisters (rowWrites cfg pix rs) c c' := by
  induction rs generalizing c with
  | nil => exact ⟨c, rfl, writesRegisters_nil c⟩
  | cons r rs ih =>
    obtain ⟨hr, hrs⟩ := List.nodup_cons.1 hn
    obtain ⟨h0, hdef⟩ := address_of_slot (hslot r)
    obtain ⟨c₁, h₁, hfirst⟩ := watch_latchEvents_framesTo (a := rowAddress cfg r) (fun j => readPix cfg.mc pix r j)
      (c := c) hdef
    obtain ⟨c', h', hrest⟩ := ih (hfirst.1.trans hlen) hrs
    have hnew : chipAddress cfg (.digit r) ∉ (rowWrites cfg pix rs).map Prod.fst := fun hmem => by
      rw [rowWrites_addresses] at hmem
      obtain ⟨r', hr', e⟩ := List.mem_map.1 hmem
      exact hr (hinj _ _ e ▸ hr')
    refine ⟨c', ?_, hfirst.cons hrest h0 hnew⟩
    rw [List.flatMap_cons, watch_append, ← h', ← h₁, hlen]
    rfl

theorem mem_rowOrder (r : BitVec 3) : r ∈ rowOrder := by
  revert r; decide

/-- Settles O26: a RENDER is eight register writes at every chip. -/
theorem renderReachesEveryChip : Obligations.RenderReachesEveryChip := by
  intro s c hw ha hslot hinj hc hlen
  have hmc := hlen.trans (chainLen_of_wf hw)
  obtain ⟨c', h, hlen', hwrites⟩ := watch_rows (rs := rowOrder) s.pix hmc hslot hinj (by decide)
  refine ⟨_, c', execRender_eq hw ha, by rw [emit_chain, hc]; exact h, hlen'.trans hmc, fun j old hj => ?_⟩
  obtain ⟨new, hnew, hwritten, hkept⟩ := hwrites j old hj
  refine ⟨new, hnew, fun r => hwritten _ (List.mem_map_of_mem (mem_rowOrder r)), fun a hother => hkept a fun hmem => ?_⟩
  rw [rowWrites_addresses] at hmem
  obtain ⟨r, -, e⟩ := List.mem_map.1 hmem
  exact hother r e.symm

/-! ### The startup sequence and the visible pixels (R139, R144, R263) -/

/-- R139 of a chip whose registers are known. -/
theorem lit_eq {cfg : Config} {chip : Chip} {test shutdown scanLimit decodeMode digit : Byte} {r : BitVec 3}
    (htest : chip.named cfg .displayTest = some test) (hshut : chip.named cfg .shutdown = some shutdown)
    (hscan : chip.named cfg .scanLimit = some scanLimit) (hdec : chip.named cfg .decodeMode = some decodeMode)
    (hdig : chip.named cfg (.digit r) = some digit) (k : BitVec 3) :
    chip.lit cfg r k =
      if test.getLsbD 0 then some true
      else if !shutdown.getLsbD 0 then some false
      else if r.toNat > (scanLimit.extractLsb' 0 3).toNat then some false
      else if decodeMode.getLsbD r.toNat then none
      else some (digit.getLsbD k.toNat) := by
  rw [Chip.lit, htest, Option.bind_some, hshut, Option.bind_some, hscan, Option.bind_some, hdec, Option.bind_some, hdig,
    Option.map_some]

/-- The instruction a startup write is. -/
def configureOf (p : Byte × Byte) : Instr := .configure p.1 p.2

/-- The pair a CONFIGURE sends. -/
def pairOf : Instr → Option (Byte × Byte)
  | .configure reg val => some (reg, val)
  | _ => none

/-- The pairs of the startup sequence (R263). -/
def startupPairs (a : RegAddr) : List (Byte × Byte) :=
  [(a.scanLimit, 0x07#8), (a.decodeMode, 0x00#8), (a.displayTest, 0x00#8), (a.shutdown, 0x01#8), (a.intensity, 0x0F#8)]

/-- The startup writes in another order are its pairs in another order. -/
theorem exists_pairs_of_perm {order : List Instr} {a : RegAddr} (h : order.Perm (startup a)) :
    ∃ ps : List (Byte × Byte), ps.Perm (startupPairs a) ∧ order = ps.map configureOf := by
  refine ⟨order.filterMap pairOf, h.filterMap pairOf, ?_⟩
  have hconf : ∀ i ∈ order, (pairOf i).map configureOf = some i := fun i hi => by
    have hi' : i ∈ (startupPairs a).map configureOf := h.subset hi
    obtain ⟨p, -, rfl⟩ := List.mem_map.1 hi'
    rfl
  rw [List.map_filterMap, List.filterMap_congr hconf, List.filterMap_some]

/-- The register writes of CONFIGUREs. -/
def pairWrites (ps : List (Byte × Byte)) : List (BitVec 4 × (Nat → Byte)) :=
  ps.map fun p => (p.1.extractLsb' 0 4, fun _ => p.2)

theorem pairWrites_addresses (ps : List (Byte × Byte)) :
    (pairWrites ps).map Prod.fst = ps.map fun p => p.1.extractLsb' 0 4 := by
  rw [pairWrites, List.map_map]
  rfl

theorem execSeq_append (is js : List Instr) (s : State) : execSeq (is ++ js) s = (execSeq is s).bind (execSeq js) := by
  induction is generalizing s with
  | nil => rfl
  | cons i is ih =>
    rw [List.cons_append, execSeq, execSeq]
    cases exec i s with
    | next t => exact ih t
    | fault _ => rfl
    | refused _ => rfl

/-- CONFIGUREs of registers of their own, one after the other, are register writes at every chip, and the block still
accepts and holds the same Pixel Buffer. -/
theorem execSeq_configures {ps : List (Byte × Byte)} {s : State} {c : Chain} (hw : s.cfg.wf = true)
    (ha : s.accepting = true) (hc : s.chain = some c) (hlen : c.chips.length = s.cfg.chainLen)
    (hslot : ∀ p ∈ ps, (fileSlot (p.1.extractLsb' 0 4)).isSome = true)
    (hn : (ps.map fun p => p.1.extractLsb' 0 4).Nodup) :
    ∃ (t : State) (c' : Chain), execSeq (ps.map configureOf) s = some t ∧ t.chain = some c' ∧
      WritesRegisters (pairWrites ps) c c' ∧ t.cfg = s.cfg ∧ t.pix = s.pix ∧ t.accepting = true := by
  induction ps generalizing s c with
  | nil => exact ⟨s, c, rfl, hc, writesRegisters_nil c, rfl, rfl, ha⟩
  | cons p ps ih =>
    obtain ⟨hp, hps⟩ := List.forall_mem_cons.1 hslot
    obtain ⟨hnew, hn'⟩ := List.nodup_cons.1 hn
    obtain ⟨h0, hdef⟩ := address_of_slot hp
    obtain ⟨c₁, hc₁, -, hfirst⟩ := emit_configureEvents_chain p.2 hw hc hlen hdef
    have ha₁ : (emit (configureEvents s.cfg.mc p.1 p.2) s).accepting = true := by
      rw [emit_eq]
      exact ha
    have hcfg := emit_cfg (configureEvents s.cfg.mc p.1 p.2) s
    have hpix := emit_pix (configureEvents s.cfg.mc p.1 p.2) s
    obtain ⟨t, c', ht, hc', hrest, hcfg', hpix', ha'⟩ :=
      ih (hcfg.symm ▸ hw) ha₁ hc₁ (hcfg.symm ▸ hfirst.1.trans hlen) hps hn'
    rw [← pairWrites_addresses] at hnew
    refine ⟨t, c', ?_, hc', hfirst.cons hrest h0 hnew, hcfg'.trans hcfg, hpix'.trans hpix, ha'⟩
    rw [List.map_cons, execSeq, configureOf, show exec (.configure p.1 p.2) s = _ from execConfigure_eq p.1 p.2 hw ha]
    exact ht

theorem mem_displayRegs (r : DisplayReg) : r ∈ displayRegs := by
  cases r with
  | digit r => revert r; decide
  | _ => decide

/-- What `addressesApart` says: every named register has a place of its own in the register file. -/
theorem addressesApart_spec {cfg : Config} (h : addressesApart cfg = true) :
    (∀ r, (fileSlot (chipAddress cfg r)).isSome = true) ∧ Function.Injective (chipAddress cfg) := by
  simp only [addressesApart, Bool.and_eq_true, List.all_eq_true, decide_eq_true_eq] at h
  obtain ⟨hslot, hn⟩ := h
  exact ⟨fun r => hslot r (mem_displayRegs r),
    fun r r' e => List.inj_on_of_nodup_map hn (mem_displayRegs r) (mem_displayRegs r') e⟩

/-- The registers the startup sequence writes, each with its pair's value. -/
def startupRegs : List (DisplayReg × Byte) :=
  [(.scanLimit, 0x07#8), (.decodeMode, 0x00#8), (.displayTest, 0x00#8), (.shutdown, 0x01#8), (.intensity, 0x0F#8)]

theorem startupPairs_eq (cfg : Config) :
    startupPairs cfg.regAddr = startupRegs.map fun p => (addressByte cfg p.1, p.2) := rfl

/-- The startup pairs go to registers of their own (R263). -/
theorem startupPairs_apart {cfg : Config} (h : addressesApart cfg = true) :
    (∀ p ∈ startupPairs cfg.regAddr, (fileSlot (p.1.extractLsb' 0 4)).isSome = true) ∧
      ((startupPairs cfg.regAddr).map fun p => p.1.extractLsb' 0 4).Nodup := by
  obtain ⟨hslot, hinj⟩ := addressesApart_spec h
  have haddr : (startupPairs cfg.regAddr).map (fun p => p.1.extractLsb' 0 4) =
      (startupRegs.map Prod.fst).map (chipAddress cfg) := rfl
  refine ⟨fun p hp => ?_, ?_⟩
  · rw [startupPairs_eq] at hp
    obtain ⟨q, -, rfl⟩ := List.mem_map.1 hp
    exact hslot q.1
  · rw [haddr]
    exact List.Nodup.map hinj (by decide)

/-- No row of a RENDER has the address of a startup register. -/
theorem startupReg_notMem_rowWrites {cfg : Config} (hinj : Function.Injective (chipAddress cfg)) (pix : Memory)
    {p : DisplayReg × Byte} (hp : p ∈ startupRegs) :
    chipAddress cfg p.1 ∉ (rowWrites cfg pix rowOrder).map Prod.fst := by
  intro hmem
  rw [rowWrites_addresses] at hmem
  obtain ⟨r, -, e⟩ := List.mem_map.1 hmem
  have hdigit : (.digit r) ∈ startupRegs.map Prod.fst := hinj e ▸ List.mem_map_of_mem hp
  simp [startupRegs] at hdigit

/-- The startup writes in any order and then a RENDER: every chip holds the startup values and its module of the Pixel
Buffer. -/
theorem execSeq_startup_render {s : State} {c : Chain} {order : List Instr} (hw : s.cfg.wf = true)
    (ha : s.accepting = true) (hapart : addressesApart s.cfg = true) (hc : s.chain = some c)
    (hlen : c.chips.length = s.cfg.chainLen) (hperm : order.Perm (startup s.cfg.regAddr)) :
    ∃ (t : State) (c' : Chain), execSeq (order ++ [.render]) s = some t ∧ t.chain = some c' ∧
      c'.chips.length = s.cfg.mc ∧ ∀ (j : Nat) (chip : Chip), c'.chips[j]? = some chip →
        (∀ p ∈ startupRegs, chip.named s.cfg p.1 = some p.2) ∧
        ∀ r : BitVec 3, chip.named s.cfg (.digit r) = some (readPix s.cfg.mc s.pix r j) := by
  have hmc := hlen.trans (chainLen_of_wf hw)
  obtain ⟨hslot, hinj⟩ := addressesApart_spec hapart
  obtain ⟨hpslot, hpn⟩ := startupPairs_apart hapart
  obtain ⟨ps, hps, rfl⟩ := exists_pairs_of_perm hperm
  obtain ⟨t, c₁, ht, hc₁, hwrites₁, hcfg, hpix, ha₁⟩ := execSeq_configures hw ha hc hlen
    (fun p hp => hpslot p (hps.subset hp)) ((hps.map _).nodup_iff.2 hpn)
  obtain ⟨c', h', hwrites'⟩ := watch_rows (rs := rowOrder) s.pix (hwrites₁.1.trans hmc) (fun r => hslot (.digit r))
    (fun r r' e => DisplayReg.digit.inj (hinj e)) (by decide)
  refine ⟨emit (renderEvents s.cfg s.pix) t, c', ?_, by rw [emit_chain, hc₁]; exact h',
    hwrites'.1.trans (hwrites₁.1.trans hmc), fun j chip hj => ?_⟩
  · have hrender : exec .render t = .next (emit (renderEvents s.cfg s.pix) t) := by
      rw [← hcfg, ← hpix]
      exact execRender_eq (hcfg.symm ▸ hw) ha₁
    rw [execSeq_append, ht, Option.bind_some, execSeq, hrender]
    rfl
  · have hjlt : j < c.chips.length := by
      rw [← hwrites₁.1, ← hwrites'.1]
      exact (List.getElem?_eq_some_iff.1 hj).1
    obtain ⟨mid, hmid, hstart, -⟩ := hwrites₁.2 j _ (List.getElem?_eq_getElem hjlt)
    obtain ⟨new, hnew, hrows, hkept⟩ := hwrites'.2 j mid hmid
    cases hj.symm.trans hnew
    refine ⟨fun p hp => ?_, fun r => hrows _ (List.mem_map_of_mem (mem_rowOrder r))⟩
    have hpair : (addressByte s.cfg p.1, p.2) ∈ ps := by
      rw [hps.mem_iff, startupPairs_eq]
      exact List.mem_map.2 ⟨p, hp, rfl⟩
    rw [Chip.named, hkept _ (startupReg_notMem_rowWrites hinj s.pix hp)]
    exact hstart (chipAddress s.cfg p.1, fun _ => p.2) (List.mem_map.2 ⟨_, hpair, rfl⟩)

/-- Settles O27: R139 read off the registers, which the startup writes and the RENDER have set. -/
theorem startupThenRenderShowsPixelBuffer : Obligations.StartupThenRenderShowsPixelBuffer := by
  refine ⟨fun cfg chip r k test shutdown scanLimit decodeMode digit htest hshut hscan hdec hdig => ?_, by decide,
    fun s c order hw ha hapart hc hlen hperm => ?_⟩
  · rw [lit_eq htest hshut hscan hdec hdig]
    refine ⟨fun h => ?_, fun h h' => ?_, fun h h' hlt => ?_, fun h h' hle hd => ?_, fun h h' hle hd => ?_⟩
    · exact if_pos h
    · rw [h, h']
      rfl
    · rw [h, h']
      exact if_pos hlt
    · rw [h, h']
      exact (if_neg (Nat.not_lt.2 hle)).trans (if_pos hd)
    · rw [h, h']
      exact (if_neg (Nat.not_lt.2 hle)).trans (if_neg (Bool.eq_false_iff.1 hd))
  · obtain ⟨t, c', ht, hc', hlen', hchips⟩ := execSeq_startup_render hw ha hapart hc hlen hperm
    refine ⟨t, c', ht, hc', hlen', fun j chip hj r k => ?_⟩
    obtain ⟨hstart, hdigit⟩ := hchips j chip hj
    have hrow : ¬r.toNat > ((0x07#8 : Byte).extractLsb' 0 3).toNat := by
      have := r.isLt
      change ¬7 < r.toNat
      omega
    rw [lit_eq (hstart (.displayTest, 0x00#8) (by decide)) (hstart (.shutdown, 0x01#8) (by decide))
      (hstart (.scanLimit, 0x07#8) (by decide)) (hstart (.decodeMode, 0x00#8) (by decide)) (hdigit r), if_neg hrow]
    simp

/-! ### A wire frame on its own (notes/assumptions/8.md) -/

/-- A wire frame that names a register writes its byte at the address of R80's default map (R135). -/
theorem exec_frameRows {ign : BitVec 4} {d : Byte} {p : Instr × DisplayReg} (hp : p ∈ frameRows ign d) (s : State) :
    exec p.1 s = writeDisplay (chipAddress Config.standard p.2) d s ∧
      (fileSlot (chipAddress Config.standard p.2)).isSome = true := by
  simp only [frameRows, List.mem_cons, List.not_mem_nil, or_false] at hp
  obtain rfl | rfl | rfl | rfl | rfl | rfl | rfl | rfl | rfl | rfl | rfl | rfl | rfl := hp <;> exact ⟨rfl, rfl⟩

/-- A stand-alone frame reaches no chip where the chain has been refused (R137). -/
theorem atLatchedChip_refused {s : State} (act : Chip → Chip) (hw : s.cfg.wf = true) (hc : s.chain = none) :
    atLatchedChip s act = .refused .chainRefused := by
  simp [atLatchedChip, hw, hc]

/-- A stand-alone frame has no chip at a position the chain does not have (R11). -/
theorem atLatchedChip_noPosition {s : State} {c : Chain} (act : Chip → Chip) (hw : s.cfg.wf = true)
    (hc : s.chain = some c) (hp : c.chips.length ≤ s.latchPos) : atLatchedChip s act = .fault .chainPosition := by
  simp [atLatchedChip, hw, hc, hp]

/-- Settles O30: one register write of one chip. -/
theorem standAloneFrameWritesItsRegister : Obligations.StandAloneFrameWritesItsRegister := by
  intro ign d s c chip hw hc hchip p hp
  obtain ⟨hexec, hslot⟩ := exec_frameRows hp s
  obtain ⟨i, hi⟩ := Option.isSome_iff_exists.1 hslot
  refine ⟨chip.put (chipAddress Config.standard p.2) d, hexec.trans (atLatchedChip_eq hw hc hchip), put_sr _ _ _, ?_,
    fun a ha => ?_⟩
  · rw [reg_put, if_pos rfl, hi, Option.map_some]
  · rw [reg_put, if_neg ha]

/-- A frame that changes nothing of its chip changes nothing at all. -/
theorem atLatchedChip_id {s : State} {c : Chain} {chip : Chip} (hw : s.cfg.wf = true) (hc : s.chain = some c)
    (hp : c.chips[s.latchPos]? = some chip) : atLatchedChip s id = .next s := by
  rw [atLatchedChip_eq hw hc hp]
  obtain ⟨hlt, rfl⟩ := List.getElem?_eq_some_iff.1 hp
  rw [id, List.set_getElem_self]
  change Host.Outcome.next { s with chain := some c } = _
  rw [← hc]

/-- Settles O31: the No-Op frame changes nothing of its chip. -/
theorem standAloneNoOpChangesNothing : Obligations.StandAloneNoOpChangesNothing :=
  fun _ _ _ _ _ hw hc hp => atLatchedChip_id hw hc hp

/-- Settles O32: an undefined address is refused first, then a refused chain, then a missing position. -/
theorem standAloneFrameStops : Obligations.StandAloneFrameStops :=
  ⟨fun _ _ _ => ⟨rfl, rfl⟩,
    fun _ _ s hw hc => ⟨atLatchedChip_refused _ hw hc, fun _ hp =>
      (exec_frameRows hp s).1.trans (atLatchedChip_refused _ hw hc)⟩,
    fun _ _ s _ hw hc hpos => ⟨atLatchedChip_noPosition _ hw hc hpos, fun _ hp =>
      (exec_frameRows hp s).1.trans (atLatchedChip_noPosition _ hw hc hpos)⟩⟩

/-- What the frame decoded from a word does on its own: its address decides (R134 to R137). -/
theorem exec_decodeFrame (w : BitVec 16) (s : State) :
    exec (decodeFrame w) s =
      if frameAddr w = 0x0#4 then atLatchedChip s id
      else if undefinedAddress (frameAddr w) then .refused .undefinedDisplayAddress
      else writeDisplay (frameAddr w) (frameData w) s := by
  have key : ∀ (a ign : BitVec 4) (data : Byte), exec (decodeFrame (encodeFrame ign a data)) s =
      if a = 0x0#4 then atLatchedChip s id
      else if undefinedAddress a then .refused .undefinedDisplayAddress else writeDisplay a data s := by
    rintro ⟨n, hn⟩ ign data
    simp only [decodeFrame, frameAddr_encodeFrame, frameIgnored_encodeFrame, frameData_encodeFrame]
    interval_cases n <;> rfl
  have h := key (frameAddr w) (frameIgnored w) (frameData w)
  rwa [encodeFrame_fields] at h

/-- Settles O33: the latch and the frame on its own do the same register write. -/
theorem standAloneFrameAgreesWithLatch : Obligations.StandAloneFrameAgreesWithLatch := by
  intro s c chip hw hc hp
  rw [exec_decodeFrame, Chip.latch]
  obtain ⟨h0, e⟩ | ⟨hu, e⟩ | ⟨h0, hslot, e⟩ := regWrite_cases chip (frameAddr chip.sr) (frameData chip.sr)
  · rw [e, if_pos h0]
    exact atLatchedChip_eq hw hc hp
  · rw [e, if_neg (address_ne_zero_of_undefined hu), if_pos hu]
  · rw [e, if_neg h0, if_neg (address_of_slot hslot).2]
    exact atLatchedChip_eq hw hc hp

/-- A wire frame that answers is one change of one chip. -/
theorem exec_frame_next {i : Instr} {s t : State} (hi : isCommand i = false) (e : exec i s = .next t) :
    ∃ act, atLatchedChip s act = .next t := by
  cases i
  case configure => cases hi
  case render => cases hi
  case newGame => cases hi
  case tick => cases hi
  case illegal => cases hi
  case wReservedD => cases e
  case wReservedE => cases e
  -- every other wire frame is one `atLatchedChip`
  all_goals exact ⟨_, e⟩

/-- Settles O34: a wire frame sets one chip of the chain. -/
theorem wireFramesChangeOneChip : Obligations.WireFramesChangeOneChip := by
  intro i s t hi e
  obtain ⟨act, hact⟩ := exec_frame_next hi e
  obtain ⟨-, c, chip, hc, -, rfl⟩ := atLatchedChip_next hact
  exact ⟨rfl, fun _ => rfl, c, _, hc, rfl, rfl, rfl, rfl, List.length_set, fun j hj =>
    List.getElem?_set_ne (Ne.symm hj)⟩

end Sys2Proof.Machine
end

section
/-!
PROOFS. The engine tick, continued (spec/43_engine_tick.md, spec/42_engine_game.md): the food oracle (R167), the tick that
eats (R201, R206), its hang (R234), the outcomes of a tick (R215), its frame, PHASE and
the notices (R27, R237), and no reversal (R209).
-/

namespace Sys2Proof.Machine

/-! ### The food oracle (R167) -/

/-- Settles O40: whatever a draw answers is free, and a free cell supplied as the next sample is its answer. -/
theorem foodDrawLaw : Obligations.FoodDrawLaw := by
  refine fun mc n X => ⟨fun ds d hd => drawFreeCell_free hd, fun g hg hn => ?_, fun ds => ?_⟩
  · exact ⟨[g], ⟨g, [], n⟩, drawFreeCell_sample [] n ⟨hg, hn⟩, rfl⟩
  · rw [← Option.not_isSome_iff_eq_none, drawFreeCell_isSome]
    push Not
    rfl

/-- Distinct valid cells leave no cell free exactly when they are as many as the grid has (R7). -/
theorem no_free_iff_length {mc : Nat} {X : List Cell} (hv : ∀ c ∈ X, c.valid mc = true) (hn : X.Nodup) :
    (∀ g : GridCell, g.valid mc = true → g.toCell ∈ X) ↔ X.length = 64 * mc := by
  have hle := valid_nodup_length_le hv hn
  refine ⟨fun hall => ?_, fun hlen g hg => ?_⟩
  · by_contra hne
    obtain ⟨g, hg, hfree⟩ := exists_free_of_length_lt (mc := mc) (X := X) (by omega)
    exact hfree (hall g hg)
  · -- one more distinct cell would be too many
    by_contra hfree
    have hv' : ∀ c ∈ g.toCell :: X, c.valid mc = true := List.forall_mem_cons.2 ⟨(toCell_valid _ _).trans hg, hv⟩
    have := valid_nodup_length_le hv' (List.nodup_cons.2 ⟨hfree, hn⟩)
    rw [List.length_cons] at this
    omega

/-! ### The tick that eats (R201, R203) -/

theorem tickKeep_of_ate {h v : BitVec 10} {s : State} (ha : tickAte h v s = true) : tickKeep h v s = s.window := by
  rw [tickKeep, keepFrom, if_pos ha]
  rfl

/-- The tick that grows the snake and places its new food where the draw says (R190 case (f)). -/
def grow (h v : BitVec 10) (d : Draw) (s : State) : State :=
  appendHead (tickHead h v s) (placeFood d (eatFood (steered h v s)))

theorem grow_eq (h v : BitVec 10) (d : Draw) (s : State) :
    grow h v d s =
      { s with
        dir := tickDir h v s
        head := move s.cfg s.head (tickDir h v s)
        trail := (grow h v d s).trail
        pix := (grow h v d s).pix
        length := s.length + 1
        stepper := if s.stepper = s.cfg.cap - 1 then s.length + 1 else s.stepper + 1
        food := d.cell
        draws := d.draws
        drawCount := d.drawCount } :=
  appendHead_eq _ _

theorem grow_head (h v : BitVec 10) (d : Draw) (s : State) : (grow h v d s).head = tickHead h v s := by
  rw [grow_eq, tickHead]

theorem grow_food (h v : BitVec 10) (d : Draw) (s : State) : (grow h v d s).food = d.cell := by rw [grow_eq]

theorem grow_pix (h v : BitVec 10) (d : Draw) (s : State) :
    (grow h v d s).pix = pixSetIn s.cfg.mc (tickHead h v s)
      (pixSetIn s.cfg.mc d.cell.toCell (pixClearIn s.cfg.mc s.food.toCell s.pix)) :=
  appendHead_pix _ _

section
variable {s : State} (hs : LegalState s) (hh : s.hung = false) {h v : BitVec 10}
include hs hh

/-- R212: the new head joins the window. -/
theorem LegalState.grow_window (d : Draw) : (grow h v d s).window = s.window ++ [tickHead h v s] := by
  obtain ⟨-, -, hls, hcap⟩ := hs.trailBounds hh
  have hbefore : trailSlice s.trail (s.stepper + 1 - (s.length + 1)) s.stepper = s.window := by
    rw [Nat.add_sub_add_right]
    rfl
  rw [← hbefore]
  exact appendHead_window (s := placeFood d (eatFood (steered h v s))) _ hs.trailLength hcap (Nat.succ_pos _)
    (Nat.succ_le_succ hls)

/-- Every slot outside the grown window is ZERO (I4 of R170). -/
theorem LegalState.grow_outside (d : Draw) (hroom : s.length + 1 < s.cfg.cap) (i : Nat) (hi : i < s.cfg.cap)
    (ho : i < (grow h v d s).stepper - (grow h v d s).length ∨ (grow h v d s).stepper ≤ i) :
    (grow h v d s).trail[i]? = some Cell.zero := by
  obtain ⟨-, -, -, hcap⟩ := hs.trailBounds hh
  refine appendHead_outside (s := placeFood d (eatFood (steered h v s))) _ hs.trailLength hcap (Nat.succ_pos _) hroom
    (fun j hj hout => (hs.game hh).outsideZero j hj ?_) i hi ho
  change j < s.stepper + 1 - (s.length + 1) ∨ s.stepper ≤ j at hout
  omega

variable (ha : tickHead h v s = s.food.toCell)
include ha

/-- The food is no cell of the window (I5), so neither is the new head that eats it. -/
theorem LegalState.head_notMem_window : tickHead h v s ∉ s.window := by
  rw [ha]
  exact (hs.game hh).foodOffSnake

theorem LegalState.tickCollides_of_ate : tickCollides h v s = false := by
  rw [tickCollides, tickKeep_of_ate (tickAte_eq_true.2 ha), List.contains_eq_mem,
    decide_eq_false (hs.head_notMem_window hh ha)]

/-- The grown snake is made of valid cells, all different, one more than before. -/
theorem LegalState.grown_spec :
    (∀ c ∈ s.window ++ [tickHead h v s], c.valid s.cfg.mc = true) ∧ (s.window ++ [tickHead h v s]).Nodup ∧
      (s.window ++ [tickHead h v s]).length = s.length + 1 := by
  obtain ⟨-, -, hls, hcap⟩ := hs.trailBounds hh
  have g := hs.game hh
  refine ⟨fun c hc => ?_, ?_, ?_⟩
  · obtain hc | rfl := (List.mem_append.1 hc).imp_right List.mem_singleton.1
    · exact g.windowValid c hc
    · exact hs.tickHead_valid h v
  · rw [← List.concat_eq_append]
    exact g.windowDistinct.concat (hs.head_notMem_window hh ha)
  · rw [List.length_append, window_length (by rw [hs.trailLength]; omega) hls]
    rfl

/-- With room in the trail, a tick that eats either grows the snake or hangs because no cell is left for new food (R190,
R234). -/
theorem LegalState.runTick_of_ate (hroom : s.length + 1 < s.cfg.cap) :
    (∃ d : Draw, d.cell.valid s.cfg.mc = true ∧ d.cell.toCell ∉ s.window ++ [tickHead h v s] ∧
      runTick h v s = grow h v d s) ∨
    (∀ g : GridCell, g.valid s.cfg.mc = true → g.toCell ∈ s.window ++ [tickHead h v s]) ∧
      runTick h v s = hang (eatFood (steered h v s)) := by
  have hate := tickAte_eq_true.2 ha
  have hover : tickOverflows h v s = false :=
    Bool.eq_false_iff.2 fun ho => absurd (tickOverflows_eq_true.1 ho).2 (by omega)
  have e : runTick h v s =
      spawnFood (s.window ++ [tickHead h v s]) (appendHead (tickHead h v s)) (eatFood (steered h v s)) := by
    rw [← tickKeep_of_ate hate, runTick, hover, hs.tickCollides_of_ate hh ha, hate]
    rfl
  rw [e]
  obtain ⟨d, -, hvalid, hfree, hd⟩ | hfull :=
    spawnFood_cases (s.window ++ [tickHead h v s]) (appendHead (tickHead h v s)) (eatFood (steered h v s))
  · exact .inl ⟨d, hvalid, hfree, hd⟩
  · exact .inr hfull

/-- Exactly the grown window and the new food are lit (I6 of R170): the eaten food goes dark and its cell is lit again as
the new head. -/
theorem LegalState.grow_lit {d : Draw} (hd : d.cell.valid s.cfg.mc = true) {c : Cell} (hc : c.valid s.cfg.mc = true) :
    lit s.cfg.mc (grow h v d s).pix c = true ↔ c ∈ (grow h v d s).window ∨ c = d.cell.toCell := by
  have hfood : s.food.toCell.valid s.cfg.mc = true := (toCell_valid _ _).trans hs.foodOnGrid
  have hdcell : d.cell.toCell.valid s.cfg.mc = true := (toCell_valid _ _).trans hd
  have hdark := wf_pixClearIn s.food.toCell (mc := s.cfg.mc) hs.pixCanonical
  rw [grow_pix, lit_pixSetIn (wf_pixSetIn _ hdark) (hs.tickHead_valid h v) hc, lit_pixSetIn hdark hdcell hc,
    lit_pixClearIn hs.pixCanonical hfood hc, (hs.game hh).litExactly c hc, hs.grow_window hh, List.mem_append,
    List.mem_singleton, ha]
  by_cases hcf : c = s.food.toCell
  · simp [hcf]
  · simp [hcf, or_comm]

end

/-- Settles O51: the new head is the food, which no cell of the window is. -/
theorem eatingNeverCollides : Obligations.EatingNeverCollides :=
  fun _ _ _ hs hh ha => hs.tickCollides_of_ate hh ha

/-- Settles O49: the grown snake's cells are distinct and valid. -/
theorem noFreeCellExactlyAtSaturation : Obligations.NoFreeCellExactlyAtSaturation := by
  intro h v s hs hh ha
  obtain ⟨hvalid, hnodup, hlen⟩ := hs.grown_spec hh ha
  rw [no_free_iff_length hvalid hnodup, hlen]

/-- Settles O43: with a cell free, the draw finds one. -/
theorem tickEatsAndGrows : Obligations.TickEatsAndGrows := by
  rintro h v s hs hr ha hroom ⟨g, hg, hfree⟩
  have hh := not_hung_of_tickRuns hr
  obtain ⟨d, hd, hoff, e⟩ | ⟨hfull, -⟩ := hs.runTick_of_ate hh ha hroom
  · have hwin := hs.grow_window hh (h := h) (v := v) d
    have hcell := grow_food h v d s
    refine ⟨grow h v d s, (hs.execTick_eq h v hr).trans (congrArg _ e), ?_, by rw [grow_head, hwin], by rwa [hcell],
      by rwa [hcell, hwin], hs.grow_outside hh d hroom, fun c hc => ?_⟩
    · rw [hcell, show (grow h v d s).draws = d.draws from appendHead_draws _ _,
        show (grow h v d s).drawCount = d.drawCount from appendHead_drawCount _ _]
      exact grow_eq h v d s
    · rw [hcell]
      exact hs.grow_lit hh ha hd hc
  · exact absurd (hfull g hg) hfree

/-- A hung block with no stand-alone frame due and no reset applied stays as it is (R234). -/
theorem step_of_hung {s : State} (hw : s.cfg.wf = true) (hh : s.hung = true) (hr : s.resetReq = none)
    (hl : s.latchDue = false) : step s = .next s := by
  simp [step, stepCommand, hw, hh, hr, hl]

/-- Settles O47: with no cell free, the draw has no answer and the tick stays in it. -/
theorem tickHangsWithoutAFreeCell : Obligations.TickHangsWithoutAFreeCell := by
  intro h v s hs hr ha hroom hfull
  have hh := not_hung_of_tickRuns hr
  obtain ⟨-, hacc, -⟩ := tickRuns_iff.1 hr
  have hfault := fault_eq_none_of_accepting hacc
  obtain ⟨d, hd, hoff, -⟩ | ⟨-, e⟩ := hs.runTick_of_ate hh ha hroom
  · exact absurd (hfull d.cell hd) hoff
  · exact ⟨hang (eatFood (steered h v s)), (hs.execTick_eq h v hr).trans (congrArg _ e), rfl, hfault, rfl, rfl, rfl,
      fun hreq hdue => step_of_hung hs.configAdmitted rfl hreq hdue⟩

/-! ### Which outcome a tick has (R215) -/

/-- What a tick that runs can do in any state, its hang included. -/
theorem runTick_outcome (h v : BitVec 10) (s : State) :
    runTick h v s = raiseFault .trailOverflow s ∨ runTick h v s = enterGameOver s ∨
      (∃ d, runTick h v s = grow h v d s) ∨ runTick h v s = hang (eatFood (steered h v s)) ∨
      tickAte h v s = false ∧ runTick h v s = plainMove h v s := by
  obtain ⟨-, e⟩ | ⟨-, -, e⟩ | ⟨-, -, -, e⟩ | ⟨-, -, hna, e⟩ := runTick_cases h v s
  · exact .inl e
  · exact .inr (.inl e)
  · obtain ⟨d, -, -, -, e'⟩ | ⟨-, e'⟩ := spawnFood_cases (tickKeep h v s ++ [tickHead h v s])
      (appendHead (tickHead h v s)) (eatFood (steered h v s))
    · exact .inr (.inr (.inl ⟨d, e.trans e'⟩))
    · exact .inr (.inr (.inr (.inl (e.trans e'))))
  · exact .inr (.inr (.inr (.inr ⟨hna, e⟩)))

/-- Settles O52: the three outcomes of a tick that eats and the two of one that does not, each by its own lemma. -/
theorem tickOutcomesAreExclusive : Obligations.TickOutcomesAreExclusive := by
  intro h v s hs hr
  have hh := not_hung_of_tickRuns hr
  obtain ⟨-, hacc, hphase⟩ := tickRuns_iff.1 hr
  have hfault := fault_eq_none_of_accepting hacc
  refine ⟨runTick h v s, hs.execTick_eq h v hr, fun ha => ?_, fun hna => ?_⟩
  · by_cases hcap : s.cfg.cap ≤ s.length + 1
    · rw [runTick_of_overflows (tickOverflows_eq_true.2 ⟨ha, hcap⟩)]
      exact ⟨hphase, .inl ⟨rfl, hh, rfl⟩⟩
    · obtain ⟨d, -, -, e⟩ | ⟨-, e⟩ := hs.runTick_of_ate hh ha (by omega)
      · rw [e, grow_eq]
        exact ⟨hphase, .inr (.inr ⟨hfault, hh, rfl⟩)⟩
      · rw [e]
        exact ⟨hphase, .inr (.inl ⟨hfault, rfl⟩)⟩
  · have hate := tickAte_eq_false.2 hna
    cases hc : tickCollides h v s with
    | true =>
      rw [runTick_of_collides (tickOverflows_of_not_ate hate) hc]
      exact ⟨hfault, hh, rfl, .inl ⟨rfl, rfl⟩⟩
    | false =>
      rw [runTick_of_moves hate hc, plainMove_eq]
      exact ⟨hfault, hh, rfl, .inr ⟨hphase, rfl⟩⟩

/-- Settles O50: an overflow needs a grown snake longer than the grid has cells. -/
theorem largeCapacityNeverOverflows : Obligations.LargeCapacityNeverOverflows := by
  intro h v s t hs hcap hf e
  obtain hkeep | hover := execTick_fault e
  · rw [hkeep, hf]
  · obtain ⟨ha, hfull⟩ := tickOverflows_eq_true.1 hover
    cases hh : s.hung with
    | true =>
      -- a hung block does not run the tick
      have hacc : s.accepting = false := by simp [State.accepting, hh]
      cases (hostCommand_ignored hs.configAdmitted hacc).symm.trans e
      exact hf
    | false =>
      obtain ⟨hvalid, hnodup, hlen⟩ := hs.grown_spec hh ha
      have := valid_nodup_length_le hvalid hnodup
      omega

/-! ### What a tick leaves alone -/

theorem read_pixSetIn_other {mc a : Nat} {c : Cell} (m : Memory) (ha : a ≠ pixIndex mc c.row c.module) :
    (pixSetIn mc c m).read a = m.read a :=
  Memory.read_write_other _ ha

theorem read_pixClearIn_other {mc a : Nat} {c : Cell} (m : Memory) (ha : a ≠ pixIndex mc c.row c.module) :
    (pixClearIn mc c m).read a = m.read a :=
  Memory.read_write_other _ ha

/-- A tick that runs and does not eat: the food and the samples stay, and of the Pixel Buffer only the tail's byte and the
head's can change. -/
theorem runTick_frame_of_not_ate {h v : BitVec 10} {s : State} (ha : tickHead h v s ≠ s.food.toCell) :
    (runTick h v s).food = s.food ∧ (runTick h v s).draws = s.draws ∧ (runTick h v s).drawCount = s.drawCount ∧
      ∀ a, a ≠ pixIndex s.cfg.mc s.tail.row s.tail.module →
        a ≠ pixIndex s.cfg.mc (tickHead h v s).row (tickHead h v s).module →
        (runTick h v s).pix.read a = s.pix.read a := by
  have hate := tickAte_eq_false.2 ha
  cases hc : tickCollides h v s with
  | true =>
    rw [runTick_of_collides (tickOverflows_of_not_ate hate) hc]
    exact ⟨rfl, rfl, rfl, fun _ _ _ => rfl⟩
  | false =>
    rw [runTick_of_moves hate hc]
    refine ⟨appendHead_food _ _, appendHead_draws _ _, appendHead_drawCount _ _, fun a htail hhead => ?_⟩
    rw [plainMove_pix, read_pixSetIn_other _ hhead, read_pixClearIn_other _ htail]

/-- A tick that runs and eats: of the Pixel Buffer only the head's byte, which is the eaten food's, and the new food's can
change. -/
theorem runTick_frame_of_ate {h v : BitVec 10} {s : State} (ha : tickHead h v s = s.food.toCell) (a : Nat)
    (hhead : a ≠ pixIndex s.cfg.mc (tickHead h v s).row (tickHead h v s).module)
    (hfood : a ≠ pixIndex s.cfg.mc (runTick h v s).food.row (runTick h v s).food.module) :
    (runTick h v s).pix.read a = s.pix.read a := by
  have hold : a ≠ pixIndex s.cfg.mc s.food.toCell.row s.food.toCell.module := ha ▸ hhead
  obtain e | e | ⟨d, e⟩ | e | ⟨hna, -⟩ := runTick_outcome h v s
  · rw [e, raiseFault_pix]
  · rw [e, enterGameOver_pix]
  · rw [e, grow_food] at hfood
    rw [e, grow_pix, read_pixSetIn_other _ hhead, read_pixSetIn_other (c := d.cell.toCell) _ hfood,
      read_pixClearIn_other _ hold]
  · rw [e]
    exact read_pixClearIn_other _ hold
  · exact absurd ha (tickAte_eq_false.1 hna)

/-- Settles O53: a tick does nothing, raises a fault, or runs, and what it runs writes the bytes of two cells. -/
theorem tickChangesNoOtherByte : Obligations.TickChangesNoOtherByte := by
  intro h v s t e
  obtain ⟨-, ⟨rfl, -⟩ | ⟨-, -, -, rfl⟩ | ⟨-, -, rfl⟩⟩ := execTick_next e
  · exact ⟨rfl, rfl, rfl, rfl, rfl, rfl, rfl, rfl, rfl, rfl, fun _ => ⟨rfl, rfl, rfl, fun _ _ _ => rfl⟩,
      fun _ _ _ _ => rfl⟩
  · obtain ⟨hcfg, hclk, hload, hdin, hbus, hchain, hport, hreset, hdue, hpos⟩ := runTick_frame h v s
    exact ⟨hcfg, hclk, hload, hdin, hbus, hchain, hport, hreset, hdue, hpos, runTick_frame_of_not_ate,
      runTick_frame_of_ate⟩
  · exact ⟨rfl, rfl, rfl, rfl, rfl, rfl, rfl, rfl, rfl, rfl, fun _ => ⟨rfl, rfl, rfl, fun _ _ _ => rfl⟩,
      fun _ _ _ _ => rfl⟩

/-! ### PHASE and the notice trace (R27, R237) -/

theorem startGame_phase (s : State) : (startGame s).phase = .running := by
  obtain ⟨d, -, -, -, e⟩ | ⟨-, e⟩ := spawnFood_cases s.cfg.initTrail id (freshGame s) <;>
  · rw [startGame, e]
    rfl

/-- From `s` to `t` the notice trace stays and the game does not end, or it ends with its one notice. -/
def EndsOnlyWithNotice (s t : State) : Prop :=
  t.notices = s.notices ∧ (t.phase = s.phase ∨ t.phase = .running) ∨
    s.phase = .running ∧ t.phase = .gameOver ∧ t.notices = s.notices ++ [.gameOver]

theorem endsOnlyWithNotice_of_eq {s t : State} (hn : t.notices = s.notices) (hp : t.phase = s.phase) :
    EndsOnlyWithNotice s t :=
  .inl ⟨hn, .inl hp⟩

theorem runTick_endsOnlyWithNotice {h v : BitVec 10} {s : State} (hr : s.tickRuns = true) :
    EndsOnlyWithNotice s (runTick h v s) := by
  obtain ⟨-, -, hphase⟩ := tickRuns_iff.1 hr
  obtain e | e | ⟨d, e⟩ | e | ⟨-, e⟩ := runTick_outcome h v s
  · rw [e]
    exact endsOnlyWithNotice_of_eq rfl rfl
  · rw [e]
    exact .inr ⟨hphase, rfl, rfl⟩
  · rw [e, grow_eq]
    exact endsOnlyWithNotice_of_eq rfl rfl
  · rw [e]
    exact endsOnlyWithNotice_of_eq rfl rfl
  · rw [e, plainMove_eq]
    exact endsOnlyWithNotice_of_eq rfl rfl

/-- No instruction ends the game without its notice, or appends a notice otherwise. -/
theorem exec_endsOnlyWithNotice {i : Instr} {s t : State} (e : exec i s = .next t) : EndsOnlyWithNotice s t := by
  cases exec_effect e with
  | nothing => exact endsOnlyWithNotice_of_eq rfl rfl
  | lines es =>
    rw [emit_eq]
    exact endsOnlyWithNotice_of_eq rfl rfl
  | game => exact .inl ⟨by simp [startGame_frame], .inr (startGame_phase s)⟩
  | tick h v _ hr => exact runTick_endsOnlyWithNotice hr
  | fault => exact endsOnlyWithNotice_of_eq rfl rfl
  | chip => exact endsOnlyWithNotice_of_eq rfl rfl

/-- Only TICK enters GameOver (R27). -/
theorem exec_enters_gameOver {i : Instr} {s t : State} (e : exec i s = .next t) (hs : s.phase = .running)
    (ht : t.phase = .gameOver) : ∃ h v, i = .tick h v := by
  cases exec_effect e with
  | nothing => exact absurd (hs.symm.trans ht) nofun
  | lines es =>
    rw [emit_phase] at ht
    exact absurd (hs.symm.trans ht) nofun
  | game => exact absurd ((startGame_phase s).symm.trans ht) nofun
  | tick h v hi => exact ⟨h, v, hi⟩
  | fault => exact absurd (hs.symm.trans ht) nofun
  | chip => exact absurd (hs.symm.trans ht) nofun

/-- Settles O60: only TICK ends the game, and the notice goes with it. -/
theorem phaseAndNoticeChanges : Obligations.PhaseAndNoticeChanges := by
  refine ⟨fun i s t e hs ht => ⟨exec_enters_gameOver e hs ht, ?_⟩, fun i s t e hne => ?_, fun s t hacc e => ?_⟩
  · obtain ⟨-, hkeep⟩ | ⟨-, -, hnote⟩ := exec_endsOnlyWithNotice e
    · simp [hs, ht] at hkeep
    · exact hnote
  · obtain ⟨hkeep, -⟩ | ⟨hs, ht, -⟩ := exec_endsOnlyWithNotice e
    · exact absurd hkeep hne
    · exact ⟨hs, ht⟩
  · obtain ⟨-, ⟨-, rfl⟩ | ⟨hna, -⟩⟩ := hostCommand_runs e
    · rw [State.gameOverOut, startGame_phase]
      rfl
    · exact absurd (hacc.symm.trans hna) nofun

/-! ### No reversal (R209) -/

/-- The direction lock keeps the direction or turns it to the other axis (R194). -/
theorem resolve_keeps_or_turns (d : Dir) (hc vc : Deflection) :
    resolve d hc vc = d ∨ (resolve d hc vc).axis ≠ d.axis := by
  cases ha : d.axis with
  | horizontal =>
    obtain ⟨hneg, hpos, hneutral⟩ := resolve_of_horizontal ha hc
    cases vc with
    | neg => exact .inr (by rw [hneg]; decide)
    | neutral => exact .inl hneutral
    | pos => exact .inr (by rw [hpos]; decide)
  | vertical =>
    obtain ⟨hneg, hpos, hneutral⟩ := resolve_of_vertical ha vc
    cases hc with
    | neg => exact .inr (by rw [hneg]; decide)
    | neutral => exact .inl hneutral
    | pos => exact .inr (by rw [hpos]; decide)

/-- The opposite direction is another one of the same axis. -/
theorem opposite_spec (d : Dir) : d.opposite ≠ d ∧ d.opposite.axis = d.axis := by
  cases d <;> decide

/-- A tick leaves the direction or gives it the one of the direction lock. -/
theorem execTick_dir {h v : BitVec 10} {s t : State} (e : execTick h v s = .next t) :
    t.dir = s.dir ∨ t.dir = tickDir h v s := by
  obtain ⟨-, ⟨rfl, -⟩ | ⟨-, -, -, rfl⟩ | ⟨-, -, rfl⟩⟩ := execTick_next e
  · exact .inl rfl
  · obtain e | e | ⟨d, e⟩ | e | ⟨-, e⟩ := runTick_outcome h v s
    · exact .inl (by rw [e, raiseFault_dir])
    · exact .inl (by rw [e, enterGameOver_dir])
    · exact .inr (by rw [e, grow_eq])
    · exact .inr (by rw [e]; rfl)
    · exact .inr (by rw [e, plainMove_eq])
  · exact .inl rfl

/-- Settles O36: the direction stays or is the lock's, which is never the opposite one. -/
theorem tickNeverReverses : Obligations.TickNeverReverses := by
  intro h v s t e
  have hturn : t.dir = s.dir ∨ t.dir.axis ≠ s.dir.axis := by
    obtain hd | hd := execTick_dir e
    · exact .inl hd
    · rw [hd]
      exact resolve_keeps_or_turns _ _ _
  obtain ⟨hne, haxis⟩ := opposite_spec s.dir
  refine ⟨fun hopp => ?_, hturn⟩
  rw [hopp] at hturn
  exact hturn.elim hne fun hax => hax haxis

end Sys2Proof.Machine
end

section
/-!
PROOFS. The torus (spec/43_engine_tick.md rule R210): a move Right counts up the pixels of a row of the chain, one by one
and modulo their number, and a move Left undoes it.
-/

namespace Sys2Proof.Machine

/-- The rank of a module on the way Right, from 0 to `mc - 1`. -/
def moduleRank (sign : StepSign) (mc m : Nat) : Nat :=
  match sign with
  | .plus => m
  | .minus => mc - 1 - m

/-- The rank of a pixel of its row on the way Right, from 0 to `8 * mc - 1`: bit 7 of a module comes first (R197). -/
def pixelRank (cfg : Config) (g : GridCell) : Nat :=
  8 * moduleRank cfg.rightStep cfg.mc g.module + (7 - g.col.toNat)

theorem moduleRank_lt {mc m : Nat} (sign : StepSign) (h : m < mc) : moduleRank sign mc m < mc := by
  cases sign <;> simp only [moduleRank] <;> omega

theorem moduleRank_inj {mc m m' : Nat} (sign : StepSign) (h : m < mc) (h' : m' < mc)
    (e : moduleRank sign mc m = moduleRank sign mc m') : m = m' := by
  cases sign <;> simp only [moduleRank] at e <;> omega

theorem pixelRank_lt {cfg : Config} {g : GridCell} (h : g.module < cfg.mc) : pixelRank cfg g < 8 * cfg.mc := by
  have := moduleRank_lt cfg.rightStep h
  rw [pixelRank]
  omega

theorem pixelRank_inj {cfg : Config} {g g' : GridCell} (h : g.module < cfg.mc) (h' : g'.module < cfg.mc)
    (hrow : g.row = g'.row) (e : pixelRank cfg g = pixelRank cfg g') : g = g' := by
  obtain ⟨r, m, k⟩ := g
  obtain ⟨r', m', k'⟩ := g'
  have hk := k.isLt
  have hk' := k'.isLt
  simp only [pixelRank] at e h h' hrow
  have hm := moduleRank_inj cfg.rightStep h h' (by omega)
  subst hrow hm
  rw [BitVec.eq_of_toNat_eq (show k.toNat = k'.toNat by omega)]

/-- Passing bit 0, the module's rank counts up modulo the number of modules. -/
theorem moduleRank_stepModule {mc m : Nat} (sign : StepSign) (h : m < mc) :
    moduleRank sign mc (stepModule sign mc m) = (moduleRank sign mc m + 1) % mc := by
  cases sign with
  | plus => rfl
  | minus =>
    simp only [moduleRank, stepModule]
    obtain rfl | hm := Nat.eq_zero_or_pos m
    · rw [Nat.zero_add, Nat.mod_eq_of_lt (by omega : mc - 1 < mc), Nat.sub_zero, Nat.sub_add_cancel (by omega),
        Nat.mod_self]
      omega
    · rw [show m + mc - 1 = m - 1 + mc by omega, Nat.add_mod_right, Nat.mod_eq_of_lt (by omega : m - 1 < mc),
        Nat.mod_eq_of_lt (by omega)]
      omega

/-- The move Right on grid cells (R197). -/
def gridRight (cfg : Config) (g : GridCell) : GridCell :=
  if g.col = 0#3 then ⟨g.row, stepModule cfg.rightStep cfg.mc g.module, 7#3⟩ else ⟨g.row, g.module, g.col - 1#3⟩

theorem shiftRight_columnBit : ∀ k : BitVec 3, k ≠ 0#3 →
    (0x01#8 : Byte) <<< k.toNat ≠ 0x01#8 ∧ (0x01#8 : Byte) <<< k.toNat >>> 1 = 0x01#8 <<< (k - 1#3).toNat := by
  decide

theorem moveRight_toCell (cfg : Config) (g : GridCell) : moveRight cfg g.toCell = (gridRight cfg g).toCell := by
  obtain ⟨r, m, k⟩ := g
  by_cases hk : k = 0#3
  · subst hk
    rfl
  · obtain ⟨hne, hshift⟩ := shiftRight_columnBit k hk
    simp only [moveRight, GridCell.toCell, gridRight, if_neg hne, if_neg hk, hshift]

theorem gridRight_module_lt {cfg : Config} {g : GridCell} (h : g.module < cfg.mc) :
    (gridRight cfg g).module < cfg.mc := by
  rw [gridRight]
  split_ifs
  · exact stepModule_lt _ h
  · exact h

/-- A move Right counts up the rank of the pixel (R197). -/
theorem pixelRank_gridRight {cfg : Config} {g : GridCell} (h : g.module < cfg.mc) :
    pixelRank cfg (gridRight cfg g) = (pixelRank cfg g + 1) % (8 * cfg.mc) := by
  obtain ⟨r, m, k⟩ := g
  have hrank : moduleRank cfg.rightStep cfg.mc m < cfg.mc := moduleRank_lt cfg.rightStep h
  by_cases hk : k = 0#3
  · -- into the next module: eight more, less the seven bits
    subst hk
    have hsum : 8 * moduleRank cfg.rightStep cfg.mc m + (7 - 0) + 1 = 8 * (moduleRank cfg.rightStep cfg.mc m + 1) := by
      omega
    simp only [pixelRank, gridRight, if_pos]
    rw [moduleRank_stepModule _ h, show (0#3).toNat = 0 from rfl, hsum, Nat.mul_mod_mul_left]
    rfl
  · have hpos : 0 < k.toNat := Nat.pos_of_ne_zero fun e => hk (BitVec.eq_of_toNat_eq e)
    have hpred : (k - 1#3).toNat = k.toNat - 1 := by bv_omega
    have hlt := k.isLt
    simp only [pixelRank, gridRight, if_neg hk, hpred]
    rw [Nat.mod_eq_of_lt (by omega)]
    omega

/-- `n` moves Right stay in the row and on the grid, and count up the rank by `n`. -/
theorem iterate_gridRight {cfg : Config} {g : GridCell} (h : g.module < cfg.mc) (n : Nat) :
    ((gridRight cfg)^[n] g).module < cfg.mc ∧ ((gridRight cfg)^[n] g).row = g.row ∧
      pixelRank cfg ((gridRight cfg)^[n] g) = (pixelRank cfg g + n) % (8 * cfg.mc) := by
  induction n with
  | zero => exact ⟨h, rfl, (Nat.mod_eq_of_lt (pixelRank_lt h)).symm⟩
  | succ n ih =>
    obtain ⟨hlt, hrow, hrank⟩ := ih
    rw [Function.iterate_succ_apply', pixelRank_gridRight hlt, hrank, Nat.mod_add_mod]
    refine ⟨gridRight_module_lt hlt, ?_, rfl⟩
    rw [← hrow, gridRight]
    split_ifs <;> rfl

theorem iterate_moveRight_toCell (cfg : Config) (g : GridCell) (n : Nat) :
    (moveRight cfg)^[n] g.toCell = ((gridRight cfg)^[n] g).toCell :=
  ((Function.Semiconj.iterate_right (f := GridCell.toCell) (ga := gridRight cfg) (gb := moveRight cfg)
    (fun g => (moveRight_toCell cfg g).symm) n).eq g).symm

/-- `n` moves Right reach the cell whose rank is `n` more, and no other cell of the row. -/
theorem iterate_moveRight_eq_iff {cfg : Config} {g g' : GridCell} (h : g.module < cfg.mc) (h' : g'.module < cfg.mc)
    (hrow : g'.row = g.row) (n : Nat) :
    (moveRight cfg)^[n] g.toCell = g'.toCell ↔ (pixelRank cfg g + n) % (8 * cfg.mc) = pixelRank cfg g' := by
  obtain ⟨hlt, hrow', hrank⟩ := iterate_gridRight h n
  rw [iterate_moveRight_toCell, toCell_injective.eq_iff, ← hrank]
  exact ⟨fun e => congrArg _ e, fun e => pixelRank_inj hlt h' (hrow'.trans hrow.symm) e⟩

/-- `n` moves Right come back exactly when `n` is a multiple of `8 * MC`. -/
theorem iterate_moveRight_eq_self_iff {cfg : Config} {g : GridCell} (h : g.module < cfg.mc) (n : Nat) :
    (moveRight cfg)^[n] g.toCell = g.toCell ↔ n % (8 * cfg.mc) = 0 := by
  have hlt := pixelRank_lt h
  rw [iterate_moveRight_eq_iff h h rfl]
  nth_rewrite 2 [← Nat.mod_eq_of_lt hlt]
  have hcancel : pixelRank cfg g + n ≡ pixelRank cfg g + 0 [MOD 8 * cfg.mc] ↔ n ≡ 0 [MOD 8 * cfg.mc] :=
    ⟨Nat.ModEq.add_left_cancel' _, Nat.ModEq.add_left _⟩
  simpa [Nat.ModEq] using hcancel

theorem iterate_move_valid {cfg : Config} {c : Cell} (d : Dir) (hc : c.valid cfg.mc = true) (n : Nat) :
    ((fun c => move cfg c d)^[n] c).valid cfg.mc = true := by
  induction n with
  | zero => exact hc
  | succ n ih =>
    rw [Function.iterate_succ_apply']
    exact move_valid d ih

/-- Moves are undone one by one by moves in the opposite direction. -/
theorem iterate_move_opposite {cfg : Config} {c : Cell} (d : Dir) (hc : c.valid cfg.mc = true) (n : Nat) :
    (fun c => move cfg c d.opposite)^[n] ((fun c => move cfg c d)^[n] c) = c := by
  induction n with
  | zero => rfl
  | succ n ih =>
    rw [Function.iterate_succ_apply, Function.iterate_succ_apply' (fun c => move cfg c d),
      move_opposite_move (iterate_move_valid d hc n), ih]

/-- A number of moves comes back in one direction exactly when it does in the opposite one. -/
theorem iterate_move_eq_self_iff {cfg : Config} {c : Cell} (d : Dir) (hc : c.valid cfg.mc = true) (n : Nat) :
    (fun c => move cfg c d.opposite)^[n] c = c ↔ (fun c => move cfg c d)^[n] c = c := by
  have hback : ∀ d : Dir, (fun c => move cfg c d)^[n] c = c → (fun c => move cfg c d.opposite)^[n] c = c :=
    fun d e => (congrArg _ e).symm.trans (iterate_move_opposite d hc n)
  have hopp : d.opposite.opposite = d := by cases d <;> rfl
  exact ⟨fun e => hopp ▸ hback d.opposite e, hback d⟩

/-- Eight moves along a column come back: rows are three bits (R195, R196). -/
theorem iterate_moveUp_eight (cfg : Config) (c : Cell) : (moveUp cfg)^[8] c = c := by
  have hrow : ∀ r : BitVec 3, (stepRow cfg.upDelta)^[8] r = r := by
    cases cfg.upDelta <;> decide
  obtain ⟨r, m, b⟩ := c
  exact congrArg (fun r => (⟨r, m, b⟩ : Cell)) (hrow r)

/-- Settles O37: Right counts up the pixels of the row modulo their number, Left undoes it, and so does Down with Up. -/
theorem torusClosure : Obligations.TorusClosure := by
  intro cfg c hc
  obtain ⟨g, hg, rfl⟩ := exists_gridCell hc
  have hm : g.module < cfg.mc := of_decide_eq_true (mem_gridCells.1 hg)
  have hup := iterate_moveUp_eight cfg g.toCell
  have hright := iterate_moveRight_eq_self_iff (cfg := cfg) hm
  have hleft := fun n => (iterate_move_eq_self_iff .right hc n).trans (hright n)
  refine ⟨hup, (iterate_move_eq_self_iff .up hc 8).2 hup, (hright _).2 (Nat.mod_self _), (hleft _).2 (Nat.mod_self _),
    fun n hpos hlt => ?_, ?_⟩
  · have hne : n % (8 * cfg.mc) ≠ 0 := by rw [Nat.mod_eq_of_lt hlt]; omega
    exact ⟨fun e => hne ((hright n).1 e), fun e => hne ((hleft n).1 e)⟩
  · -- eight pixels further is the same column of the next module
    refine (iterate_moveRight_eq_iff (g' := ⟨g.row, stepModule cfg.rightStep cfg.mc g.module, g.col⟩) hm
      (stepModule_lt _ hm) rfl 8).2 ?_
    have hdiv : (pixelRank cfg g + 8) / 8 = moduleRank cfg.rightStep cfg.mc g.module + 1 := by rw [pixelRank]; omega
    have hmod : (pixelRank cfg g + 8) % 8 = 7 - g.col.toNat := by rw [pixelRank]; omega
    rw [Nat.mod_mul, hdiv, hmod, pixelRank, moduleRank_stepModule _ hm, Nat.add_comm]

end Sys2Proof.Machine
end

section
/-!
PROOFS. Every step keeps a legal state legal (spec/42_engine_game.md rule R170): a fresh game is legal, a tick keeps the
running invariants or hangs, and no other instruction touches the engine.
-/

namespace Sys2Proof.Machine

/-! ### What does not touch the engine -/

theorem four_le_cap_of_wf {cfg : Config} (h : cfg.wf = true) : 4 ≤ cfg.cap := by
  simp only [Config.wf, Bool.and_eq_true, decide_eq_true_eq] at h
  obtain ⟨⟨⟨⟨⟨-, hcap⟩, -⟩, -⟩, -⟩, -⟩ := h
  exact hcap

/-- The chain, where there is one, has `CHAIN_LEN` chips (R130). -/
def ChainFits (s : State) : Prop := ∀ c, s.chain = some c → c.chips.length = s.cfg.chainLen

/-- No legal value depends on the lines, the traces, PHASE, DIR, FAULT, the inputs or a stand-alone frame, nor on more of
the chain than its length. -/
theorem LegalState.of_same_engine {s t : State} (hs : LegalState s) (hc : ChainFits t)
    (e : t = { s with
      clk := t.clk, load := t.load, din := t.din, bus := t.bus, phase := t.phase, dir := t.dir, fault := t.fault,
      notices := t.notices, chain := t.chain, port := t.port, resetReq := t.resetReq, draws := t.draws,
      drawCount := t.drawCount, latchDue := t.latchDue, latchPos := t.latchPos }) : LegalState t := by
  rw [e]
  rw [e] at hc
  refine ⟨hs.configAdmitted, hs.trailLength, hs.pixCanonical, hs.pixInSpace, hs.foodOnGrid, hs.headOnGrid, hc,
    fun hh => ?_⟩
  obtain ⟨hlen, hstep, hnew, hvalid, hnodup, hzero, hfood, hlit⟩ := hs.game hh
  exact ⟨hlen, hstep, hnew, hvalid, hnodup, hzero, hfood, hlit⟩

theorem LegalState.emit_legal {s : State} (hs : LegalState s) (es : List BusEvent) : LegalState (emit es s) := by
  refine hs.of_same_engine (fun c hc => ?_) (by rw [emit_eq])
  rw [emit_chain] at hc
  rw [emit_cfg]
  cases hold : s.chain with
  | none => rw [hold, watch_none] at hc; cases hc
  | some old =>
    rw [hold] at hc
    rw [watch_length hc, hs.chainLength old hold]

/-- Setting one chip changes no legal value: the chain is as long as before. -/
theorem LegalState.setChip_legal {s : State} {c : Chain} (hs : LegalState s) (hc : s.chain = some c) (j : Nat)
    (chip : Chip) : LegalState { s with chain := some { c with chips := c.chips.set j chip } } := by
  refine hs.of_same_engine (fun c' hc' => ?_) rfl
  cases hc'
  rw [List.length_set, hs.chainLength c hc]

/-! ### A fresh game -/

/-- The window of a fresh game is `INIT_TRAIL` (R169). -/
theorem placeFood_freshGame_window {s : State} (d : Draw) (hw : s.cfg.wf = true) :
    (placeFood d (freshGame s)).window = s.cfg.initTrail := by
  obtain ⟨hlen, -, -⟩ := initTrail_of_wf hw
  change ((initialTrail s.cfg).take 3).drop 0 = s.cfg.initTrail
  rw [List.drop_zero, initialTrail, ← hlen, List.take_left]

theorem initialTrail_length {cfg : Config} (hw : cfg.wf = true) : (initialTrail cfg).length = cfg.cap := by
  obtain ⟨hlen, -, -⟩ := initTrail_of_wf hw
  have := four_le_cap_of_wf hw
  rw [initialTrail_eq hw, List.length_append, List.length_replicate, hlen]
  omega

/-- The head of a fresh game is the newest cell of its trail. -/
theorem initialTrail_newest {cfg : Config} (hw : cfg.wf = true) : (initialTrail cfg)[2]? = some (initialHead cfg) := by
  obtain ⟨hlen, -, -⟩ := initTrail_of_wf hw
  rw [initialTrail, List.getElem?_append_left (by omega), initialHead, List.getD_eq_getElem?_getD,
    List.getElem?_eq_getElem (by omega), Option.getD_some]

theorem initialHead_valid {cfg : Config} (hw : cfg.wf = true) : (initialHead cfg).valid cfg.mc = true := by
  obtain ⟨hlen, -, hvalid⟩ := initTrail_of_wf hw
  rw [initialHead, List.getD_eq_getElem _ _ (by omega)]
  exact hvalid _ (List.getElem_mem _)

theorem initialTrail_outside {cfg : Config} (hw : cfg.wf = true) (i : Nat) (hi : i < cfg.cap) (h3 : 3 ≤ i) :
    (initialTrail cfg)[i]? = some Cell.zero := by
  obtain ⟨hlen, -, -⟩ := initTrail_of_wf hw
  rw [initialTrail_eq hw, List.getElem?_append_right (by omega), List.getElem?_replicate, if_pos (by omega)]

/-- A fresh game is legal, whatever the engine held before (R169, R170). -/
theorem startGame_legal {s : State} (hw : s.cfg.wf = true) (hc : ChainFits s) : LegalState (startGame s) := by
  obtain ⟨d, hd, hfree, e⟩ := startGame_eq_placeFood hw
  obtain ⟨-, hnodup, hvalid⟩ := initTrail_of_wf hw
  have hcap := four_le_cap_of_wf hw
  have hcell : d.cell.toCell.valid s.cfg.mc = true := (toCell_valid _ _).trans hd
  have hwin := placeFood_freshGame_window d hw
  rw [e]
  refine ⟨hw, initialTrail_length hw, wf_pixSetIn _ (wf_initialPix s.cfg),
    inSpace_pixSetIn (inSpace_initialPix hw) (Cell.module_lt hcell), hd, initialHead_valid hw, hc, fun _ => ?_⟩
  refine ⟨⟨Nat.le_refl 3, Nat.le_sub_one_of_lt hcap⟩, ⟨Nat.le_refl 3, Nat.le_sub_one_of_lt hcap⟩,
    initialTrail_newest hw, by rwa [hwin], by rwa [hwin], fun i hi ho => ?_, by rwa [hwin], fun c hcv => ?_⟩
  · exact initialTrail_outside hw i hi (ho.resolve_left (Nat.not_lt_zero i))
  · rw [hwin, or_comm, ← lit_initialPix hw hcv]
    exact lit_pixSetIn (wf_initialPix s.cfg) hcell hcv

theorem applyReset_legal {s : State} (hw : s.cfg.wf = true) (hc : ChainFits s) : LegalState (applyReset s) :=
  startGame_legal hw hc

/-! ### A tick -/

/-- The last cell of the window is the newest of the trail (R28). -/
theorem newest_of_window {s : State} {X : List Cell} {c : Cell} (hs : s.stepper ≤ s.trail.length)
    (hw : s.window = X ++ [c]) : s.trail[s.stepper - 1]? = some c := by
  have hlen := trailSlice_length (trail := s.trail) (lo := s.stepper - s.length) hs
  have hlast := trailSlice_getElem? s.trail (s.stepper - s.length) s.stepper X.length
  change s.window.length = _ at hlen
  change s.window[X.length]? = _ at hlast
  rw [hw, List.length_append, List.length_singleton] at hlen
  rw [hw, List.getElem?_concat_length, if_pos (by omega)] at hlast
  rw [hlast]
  congr 1
  omega

/-- The stepper after an append: never below the length, never past the last slot (R205, R206). -/
theorem stepper_after_append {cap len stepper : Nat} (hlen : len < cap) (hle : len ≤ stepper + 1)
    (hcap : stepper < cap) :
    len ≤ (if stepper = cap - 1 then len else stepper + 1) ∧
      (if stepper = cap - 1 then len else stepper + 1) ≤ cap - 1 := by
  split_ifs <;> omega

/-- A tick that hangs leaves legal values; the running invariants are not claimed of it (R234). -/
theorem LegalState.hang_legal {s : State} (hs : LegalState s) (h v : BitVec 10) :
    LegalState (hang (eatFood (steered h v s))) := by
  have hfood : s.food.toCell.valid s.cfg.mc = true := (toCell_valid _ _).trans hs.foodOnGrid
  exact ⟨hs.configAdmitted, hs.trailLength, wf_pixClearIn _ hs.pixCanonical,
    inSpace_pixClearIn hs.pixInSpace (Cell.module_lt hfood), hs.foodOnGrid, hs.tickHead_valid h v, hs.chainLength,
    nofun⟩

section
variable {s : State} (hs : LegalState s) (hh : s.hung = false) {h v : BitVec 10}
include hs hh

/-- A plain move keeps the running invariants (R170, R212). -/
theorem LegalState.plainMove_legal (hate : tickHead h v s ≠ s.food.toCell) (hfree : tickHead h v s ∉ s.window.tail) :
    LegalState (plainMove h v s) := by
  have g := hs.game hh
  obtain ⟨-, hlen, hls, hcap⟩ := hs.trailBounds hh
  obtain ⟨htail, -, -⟩ := hs.tail_spec hh
  have hhead := hs.tickHead_valid h v
  have hstep := stepper_after_append hlen (Nat.le_succ_of_le hls) hcap
  have htrail : (plainMove h v s).trail.length = s.cfg.cap :=
    appendHead_trail_length (s := vacateTail (steered h v s)) _
      ((vacateTail_trail_length _).trans hs.trailLength) hlen.le
  have hwin := hs.plainMove_window hh h v
  have hout := hs.plainMove_outside hh h v
  have hlit := fun c => hs.plainMove_lit hh h v (c := c)
  have e := plainMove_eq h v s
  rw [plainMove_pix] at e
  generalize (plainMove h v s).trail = trail at e
  rw [e] at htrail hwin hout hlit ⊢
  refine ⟨hs.configAdmitted, htrail, wf_pixSetIn _ (wf_pixClearIn _ hs.pixCanonical),
    inSpace_pixSetIn (inSpace_pixClearIn hs.pixInSpace (Cell.module_lt htail)) (Cell.module_lt hhead), hs.foodOnGrid,
    hhead, hs.chainLength, fun _ => ⟨g.lengthInRange, hstep, newest_of_window ?_ hwin, ?_, ?_, hout, ?_, hlit⟩⟩
  · rw [htrail]
    exact hstep.2.trans (Nat.sub_le _ _)
  · rw [hwin]
    exact List.forall_mem_append.2
      ⟨fun c hc => g.windowValid c (List.mem_of_mem_tail hc), List.forall_mem_singleton.2 hhead⟩
  · rw [hwin, ← List.concat_eq_append]
    exact g.windowDistinct.tail.concat hfree
  · rw [hwin, List.mem_append, List.mem_singleton, not_or]
    exact ⟨fun hc => g.foodOffSnake (List.mem_of_mem_tail hc), hate.symm⟩

/-- A tick that grows the snake keeps the running invariants (R170, R212). -/
theorem LegalState.grow_legal {d : Draw} (ha : tickHead h v s = s.food.toCell) (hroom : s.length + 1 < s.cfg.cap)
    (hd : d.cell.valid s.cfg.mc = true) (hfree : d.cell.toCell ∉ s.window ++ [tickHead h v s]) :
    LegalState (grow h v d s) := by
  obtain ⟨-, -, hls, hcap⟩ := hs.trailBounds hh
  obtain ⟨hlo, -⟩ := (hs.game hh).lengthInRange
  have hhead := hs.tickHead_valid h v
  have hdcell : d.cell.toCell.valid s.cfg.mc = true := (toCell_valid _ _).trans hd
  have hfood : s.food.toCell.valid s.cfg.mc = true := (toCell_valid _ _).trans hs.foodOnGrid
  have hstep := stepper_after_append hroom (Nat.succ_le_succ hls) hcap
  have htrail : (grow h v d s).trail.length = s.cfg.cap :=
    appendHead_trail_length (s := placeFood d (eatFood (steered h v s))) _ hs.trailLength hroom.le
  obtain ⟨hvalid, hnodup, -⟩ := hs.grown_spec hh ha
  have hwin := hs.grow_window hh (h := h) (v := v) d
  have hout := hs.grow_outside hh (h := h) (v := v) d hroom
  have hlit := fun c => hs.grow_lit hh ha hd (c := c)
  have e := grow_eq h v d s
  rw [grow_pix] at e
  generalize (grow h v d s).trail = trail at e
  rw [e] at htrail hwin hout hlit ⊢
  refine ⟨hs.configAdmitted, htrail, wf_pixSetIn _ (wf_pixSetIn _ (wf_pixClearIn _ hs.pixCanonical)),
    inSpace_pixSetIn (inSpace_pixSetIn (inSpace_pixClearIn hs.pixInSpace (Cell.module_lt hfood))
      (Cell.module_lt hdcell)) (Cell.module_lt hhead), hd, hhead, hs.chainLength,
    fun _ => ⟨⟨Nat.le_succ_of_le hlo, Nat.le_sub_one_of_lt hroom⟩, hstep, newest_of_window ?_ hwin, ?_, ?_, hout, ?_,
      hlit⟩⟩
  · rw [htrail]
    exact hstep.2.trans (Nat.sub_le _ _)
  · rwa [hwin]
  · rwa [hwin]
  · rwa [hwin]

/-- A tick that runs leads to a legal state, whatever its outcome. -/
theorem LegalState.runTick_legal : LegalState (runTick h v s) := by
  by_cases ha : tickHead h v s = s.food.toCell
  · by_cases hcap : s.cfg.cap ≤ s.length + 1
    · rw [runTick_of_overflows (tickOverflows_eq_true.2 ⟨ha, hcap⟩)]
      exact hs.of_same_engine hs.chainLength rfl
    · have hroom := Nat.lt_of_not_le hcap
      obtain ⟨d, hd, hfree, e⟩ | ⟨-, e⟩ := hs.runTick_of_ate hh ha hroom
      · rw [e]
        exact hs.grow_legal hh ha hroom hd hfree
      · rw [e]
        exact hs.hang_legal h v
  · have hate := tickAte_eq_false.2 ha
    cases hc : tickCollides h v s with
    | true =>
      rw [runTick_of_collides (tickOverflows_of_not_ate hate) hc]
      exact hs.of_same_engine hs.chainLength rfl
    | false =>
      rw [runTick_of_moves hate hc]
      rw [hs.tickCollides_eq hh hate] at hc
      exact hs.plainMove_legal hh ha (by simpa using hc)

end

/-! ### Every instruction, every step -/

/-- No instruction leads out of the legal states. -/
theorem LegalState.exec_legal {i : Instr} {s t : State} (hs : LegalState s) (e : exec i s = .next t) :
    LegalState t := by
  cases exec_effect e with
  | nothing => exact hs
  | lines es => exact hs.emit_legal es
  | game => exact startGame_legal hs.configAdmitted hs.chainLength
  | tick h v _ hr => exact hs.runTick_legal (not_hung_of_tickRuns hr)
  | fault => exact hs.of_same_engine hs.chainLength rfl
  | chip c act j old hc => exact hs.setChip_legal hc j _

/-- Where the reset comes within a command, the chain has seen some of its line writes. -/
theorem LegalState.cutByReset_legal {s u : State} (n : Nat) (hs : LegalState s) (hu : LegalState u)
    (hcfg : u.cfg = s.cfg) : LegalState (cutByReset n s u) := by
  refine applyReset_legal hu.configAdmitted fun c hc => ?_
  have hc' : watch s.chain ((u.bus.drop s.bus.length).take n) = some c := hc
  cases hold : s.chain with
  | none => rw [hold, watch_none] at hc'; cases hc'
  | some old =>
    rw [hold] at hc'
    rw [watch_length hc', hs.chainLength old hold, ← hcfg]

/-! ### What no instruction changes -/

/-- The configuration, the port, the reset request and the stand-alone frame are as they were. -/
def KeepsInputs (s t : State) : Prop :=
  t.cfg = s.cfg ∧ t.port = s.port ∧ t.resetReq = s.resetReq ∧ t.latchDue = s.latchDue ∧ t.latchPos = s.latchPos

theorem keepsInputs_refl (s : State) : KeepsInputs s s := ⟨rfl, rfl, rfl, rfl, rfl⟩

/-- No instruction changes the configuration (R6) or an input but the random samples. -/
theorem exec_keepsInputs {i : Instr} {s t : State} (e : exec i s = .next t) : KeepsInputs s t := by
  cases exec_effect e with
  | nothing => exact keepsInputs_refl s
  | lines es =>
    rw [emit_eq]
    exact keepsInputs_refl s
  | game => simp [KeepsInputs, startGame_frame]
  | tick h v => simp [KeepsInputs, runTick_frame]
  | fault => exact keepsInputs_refl s
  | chip => exact keepsInputs_refl s

/-! ### Every step -/

/-- Taking a command word from the port or a frame from its chip changes no legal value. -/
theorem LegalState.takeCommand_legal {s : State} (hs : LegalState s) : LegalState (takeCommand s) :=
  hs.of_same_engine hs.chainLength rfl

theorem LegalState.takeFrame_legal {s : State} (hs : LegalState s) : LegalState (takeFrame s) :=
  hs.of_same_engine hs.chainLength rfl

/-- Settles O55: a step resets the block, or runs one instruction, or waits. -/
theorem stepKeepsLegalState : Obligations.StepKeepsLegalState := by
  intro s t hs e
  obtain ⟨-, ⟨n, -, hreset⟩ | ⟨-, -, chip, -, he⟩ | ⟨-, -, -, rfl⟩ | ⟨-, -, -, w, rest, -, he⟩⟩ := step_next e
  · obtain ⟨-, rfl⟩ | ⟨-, -, w, rest, u, -, he, rfl⟩ := stepReset_next hreset
    · exact applyReset_legal hs.configAdmitted hs.chainLength
    · obtain ⟨hcfg, -⟩ := exec_keepsInputs he
      exact hs.cutByReset_legal n (hs.takeCommand_legal.exec_legal he) hcfg
  · exact hs.takeFrame_legal.exec_legal he
  · exact hs
  · exact hs.takeCommand_legal.exec_legal he

end Sys2Proof.Machine
end

section
/-!
PROOFS. The reset and the step (spec/70_reset_and_hazards.md rules R260, R261; spec/30_encoding.md rule R70; spec/00_scope.md
rules R6, R8; spec/60_exceptions.md rule R234).
-/

namespace Sys2Proof.Machine

/-! ### The state after power-on (R261) -/

/-- The state at power-on before its game is set up: the samples are untouched, and the engine's values do not matter. -/
def State.unstarted (cfg : Config) (draws : List GridCell) : State :=
  { State.powerOn cfg draws with food := ⟨0#3, 0, 0#3⟩, hung := false, draws := draws, drawCount := 0 }

/-- Power-on sets up its game as NEW_GAME does (R260). -/
theorem powerOn_eq_startGame (cfg : Config) (draws : List GridCell) :
    State.powerOn cfg draws = startGame (State.unstarted cfg draws) := by
  have hd : drawFood (State.unstarted cfg draws).cfg.initTrail (freshGame (State.unstarted cfg draws)) =
      drawFreeCell cfg.mc cfg.initTrail draws 0 := rfl
  rw [startGame, spawnFood, hd]
  cases h : drawFreeCell cfg.mc cfg.initTrail draws 0 <;>
  · rw [State.unstarted, State.powerOn, h]
    rfl

theorem chainFits_unstarted (cfg : Config) (draws : List GridCell) : ChainFits (State.unstarted cfg draws) := by
  intro c hc
  cases hc
  simp [Chain.powerUp, State.unstarted, State.powerOn]

theorem powerOn_legal {cfg : Config} (draws : List GridCell) (hw : cfg.wf = true) :
    LegalState (State.powerOn cfg draws) := by
  rw [powerOn_eq_startGame]
  exact startGame_legal hw (chainFits_unstarted cfg draws)

/-- In an admitted configuration the food of power-on is found, so the state is a fresh game with its food. -/
theorem powerOn_eq_placeFood {cfg : Config} (draws : List GridCell) (hw : cfg.wf = true) :
    ∃ d : Draw, d.cell.valid cfg.mc = true ∧ d.cell.toCell ∉ cfg.initTrail ∧
      State.powerOn cfg draws = placeFood d (freshGame (State.unstarted cfg draws)) := by
  rw [powerOn_eq_startGame]
  exact startGame_eq_placeFood (s := State.unstarted cfg draws) hw

/-- Settles O57: a fresh game is legal and in service. -/
theorem powerOnIsLegal : Obligations.PowerOnIsLegal := by
  intro cfg draws hw
  obtain ⟨d, -, -, e⟩ := powerOn_eq_placeFood draws hw
  refine ⟨powerOn_legal draws hw, ?_⟩
  rw [e]
  rfl

/-- Settles O56: the state after reset is the one after power-on under the defaults. -/
theorem resetStateIsLegal : Obligations.ResetStateIsLegal :=
  powerOn_legal [] (by decide)

theorem standard_wf_of_cap {cap : Nat} (h : 4 ≤ cap) : { Config.standard with cap := cap }.wf = true := by
  have hstd : Config.standard.wf = true := by decide
  simp only [Config.wf, Bool.and_eq_true, decide_eq_true_eq] at hstd ⊢
  obtain ⟨⟨⟨⟨⟨hmc, -⟩, hlen⟩, hnodup⟩, hvalid⟩, hchain⟩ := hstd
  exact ⟨⟨⟨⟨⟨hmc, h⟩, hlen⟩, hnodup⟩, hvalid⟩, hchain⟩

/-- Settles O59: the values are those of a fresh game under the defaults. -/
theorem resetValues : Obligations.ResetValues := by
  refine ⟨rfl, fun cap draws hcap => ?_⟩
  have hw := standard_wf_of_cap hcap
  obtain ⟨d, hd, hfree, e⟩ := powerOn_eq_placeFood draws hw
  have hwin := placeFood_freshGame_window (s := State.unstarted { Config.standard with cap := cap } draws) d hw
  have hlit := ((powerOn_legal draws hw).game (by rw [e]; rfl)).litExactly
  rw [e] at hlit ⊢
  refine ⟨rfl, rfl, rfl, rfl, rfl, rfl, rfl, rfl, rfl, rfl, initialTrail_eq hw, hd, hfree, fun c hc => ?_, rfl, rfl,
    rfl, rfl⟩
  rw [hwin] at hlit
  exact hlit c hc

/-! ### The reset (R260) -/

theorem drawFood_freshGame (s : State) : drawFood s.cfg.initTrail (freshGame s) =
    drawFreeCell s.cfg.mc s.cfg.initTrail s.draws s.drawCount := rfl

/-- What the reset sets beside the game: the lines without an event, the traces and the request (R260). -/
def afterReset (lines : LineLevels) (s : State) : State :=
  { s with clk := lines.clk, load := lines.load, din := lines.din, bus := [], notices := [], resetReq := none }

/-- The block without fault and hang. -/
def cleared (s : State) : State := { s with fault := none, hung := false }

/-- The reset sets up the game as NEW_GAME does in the cleared block. -/
theorem applyReset_eq (s : State) : applyReset s = afterReset s.cfg.lineReset (startGame (cleared s)) := by
  rw [applyReset, startGame, startGame, spawnFood, spawnFood, drawFood_freshGame, drawFood_freshGame]
  dsimp only [cleared]
  cases drawFreeCell s.cfg.mc s.cfg.initTrail s.draws s.drawCount <;> rfl

/-- A reset within a command that appended `es` does so over the chain that has seen the first `n` of them. -/
theorem cutByReset_eq {s r : State} {es : List BusEvent} (n : Nat) (hcfg : r.cfg = s.cfg) (hbus : r.bus = s.bus ++ es) :
    cutByReset n s r =
      afterReset s.cfg.lineReset ((startGame (cleared r)).withChain (watch s.chain (es.take n))) := by
  have hseen : r.bus.drop s.bus.length = es := by rw [hbus, List.drop_left]
  rw [cutByReset, applyReset_eq, hseen, ← hcfg]
  exact congrArg (afterReset r.cfg.lineReset) (startGame_withChain (cleared r) _)

theorem step_of_resetReq {s : State} {n : Nat} (hw : s.cfg.wf = true) (hr : s.resetReq = some n) :
    step s = stepReset n s := by
  simp [step, hw, hr]

/-- With nothing in progress but a hang, the reset comes at once. -/
theorem stepReset_at_once {s : State} {n : Nat} (h : n = 0 ∨ s.hung = true ∨ s.port = []) :
    stepReset n s = .next (applyReset s) := by
  by_cases hc : n = 0 ∨ s.hung = true
  · simp [stepReset, hc]
  · have hport : s.port = [] := by tauto
    simp [stepReset, hport]

/-- Within a command, the reset cuts it after its first `n` line writes. -/
theorem stepReset_within {s r : State} {n : Nat} {w : BitVec 32} {rest : List (BitVec 32)} (hn : 0 < n)
    (hh : s.hung = false) (hp : s.port = w :: rest) (e : exec (decodeCommand w) { s with port := rest } = .next r) :
    stepReset n s = .next (cutByReset n s r) := by
  have htake : takeCommand s = { s with port := rest } := by rw [takeCommand, hp]; rfl
  have hc : ¬(n = 0 ∨ s.hung = true) := not_or.2 ⟨hn.ne', Bool.eq_false_iff.1 hh⟩
  simp [stepReset, hc, hp, htake, e, abandonCommand]

/-- The game set up in the cleared block: no fault, no hang, and the chain, the configuration, the port and the stand-alone
frame as they were. -/
theorem startGame_cleared {s : State} (hw : s.cfg.wf = true) :
    (startGame (cleared s)).fault = none ∧ (startGame (cleared s)).hung = false ∧
      (startGame (cleared s)).chain = s.chain ∧ (startGame (cleared s)).cfg = s.cfg ∧
      (startGame (cleared s)).port = s.port ∧ (startGame (cleared s)).latchDue = s.latchDue ∧
      (startGame (cleared s)).latchPos = s.latchPos := by
  obtain ⟨d, -, -, e⟩ := startGame_eq_placeFood (s := cleared s) hw
  rw [e]
  exact ⟨rfl, rfl, rfl, rfl, rfl, rfl, rfl⟩

/-- Settles O58: the reset is NEW_GAME of the cleared block, over the chain that has seen the writes made so far. -/
theorem resetProcedure : Obligations.ResetProcedure := by
  refine ⟨fun n s hw hr hidle => ?_, fun n w rest s r hw hr hn hh hp e => ?_⟩
  · refine ⟨applyReset s, _, (step_of_resetReq hw hr).trans (stepReset_at_once hidle),
      execNewGame_eq (s := cleared s) hw rfl, applyReset_eq s, ?_⟩
    rw [applyReset_eq]
    exact startGame_cleared hw
  · obtain ⟨hcfg, hport, -, hdue, hpos⟩ := exec_keepsInputs e
    obtain ⟨es, hbus, -⟩ := chainSeesWritesInBusOrder _ _ _ (isCommand_decodeCommand w) e
    have hw' : r.cfg.wf = true := by rwa [hcfg]
    have hcut := cutByReset_eq (s := s) n hcfg hbus
    obtain ⟨hfault, hhung, -, hcfg', hport', hdue', hpos'⟩ := startGame_cleared hw'
    refine ⟨cutByReset n s r, _, es, (step_of_resetReq hw hr).trans (stepReset_within hn hh hp e),
      execNewGame_eq (s := cleared r) hw' rfl, hbus, hcut, ?_⟩
    rw [hcut]
    exact ⟨hfault, hhung, hcfg'.trans hcfg, hport'.trans hport, hdue'.trans hdue, hpos'.trans hpos⟩

/-! ### What a step runs (R70, R8, R234) -/

/-- Settles O7: each of the three fetches is one arm of `step`. -/
theorem stepRunsTheDecodedInstruction : Obligations.StepRunsTheDecodedInstruction := by
  refine fun s hw hr => ⟨fun w rest hl hh hp => ?_, fun c chip hl hc hp => ?_, fun hl hp => ?_⟩
  · simp [step, stepCommand, takeCommand, hw, hr, hl, hh, hp]
  · simp [step, stepFrame, latchedChip, takeFrame, hw, hr, hl, hc, hp]
  · simp [step, stepCommand, hw, hr, hl, hp]

/-- No step changes the configuration (R6). -/
theorem step_cfg {s t : State} (e : step s = .next t) : t.cfg = s.cfg := by
  obtain ⟨-, ⟨n, -, hreset⟩ | ⟨-, -, chip, -, he⟩ | ⟨-, -, -, rfl⟩ | ⟨-, -, -, w, rest, -, he⟩⟩ := step_next e
  · obtain ⟨-, rfl⟩ | ⟨-, -, w, rest, u, -, he, rfl⟩ := stepReset_next hreset
    · exact (applyReset_frame s).1
    · exact (cutByReset_frame n s u).1.trans (exec_keepsInputs he).1
  · exact (exec_keepsInputs he).1
  · rfl
  · exact (exec_keepsInputs he).1

theorem exec_command_illFormed {i : Instr} {s : State} (hi : isCommand i = true) (hw : s.cfg.wf = false) :
    exec i s = .refused .illFormedConfig := by
  obtain ⟨run, h⟩ := exec_command hi s
  exact h.trans (hostCommand_illFormed hw)

/-- The column bits are the eight shifts of bit 0 (R160). -/
theorem isColumnBit_iff (b : Byte) : isColumnBit b = true ↔ ∃ k : BitVec 3, b = 0x01#8 <<< k.toNat := by
  refine ⟨fun h => ?_, ?_⟩
  · obtain ⟨k, hk⟩ := exists_col_of_columnBit b h
    exact ⟨k, hk.symm⟩
  · rintro ⟨k, rfl⟩
    exact isColumnBit_shift k

theorem cell_valid_iff (mc : Nat) (c : Cell) :
    c.valid mc = true ↔ c.module < mc ∧ ∃ k : BitVec 3, c.columnBit = 0x01#8 <<< k.toNat := by
  rw [Cell.valid, Bool.and_eq_true, decide_eq_true_eq, isColumnBit_iff]

/-- Settles O8: every command and every step opens with the check of R8. -/
theorem configurationIsCheckedAndFixed : Obligations.ConfigurationIsCheckedAndFixed := by
  refine ⟨fun s hw => ⟨by simp [step, hw], fun i hi => exec_command_illFormed hi hw⟩, fun cfg => ?_,
    fun s t e => step_cfg e⟩
  simp only [Config.wf, Bool.and_eq_true, decide_eq_true_eq, List.all_eq_true, cell_valid_iff, and_assoc]

/-- Settles O9: CONFIGURE, RENDER, NEW_GAME and ILLEGAL complete in every admitted configuration, and TICK where every index
it uses is in range. -/
theorem commandsCompleteInLegalStates : Obligations.CommandsCompleteInLegalStates := by
  intro i s hs hi
  have hw := hs.configAdmitted
  cases ha : s.accepting with
  | false =>
    obtain ⟨run, h⟩ := exec_command hi s
    exact ⟨s, h.trans (hostCommand_ignored hw ha)⟩
  | true =>
    cases i
    case configure reg val => exact ⟨_, execConfigure_eq reg val hw ha⟩
    case render => exact ⟨_, execRender_eq hw ha⟩
    case newGame => exact ⟨_, execNewGame_eq hw ha⟩
    case tick h v =>
      cases hp : s.phase with
      | gameOver => exact ⟨s, execTick_of_gameOver h v hw hp⟩
      | running => exact ⟨_, hs.execTick_eq h v (tickRuns_iff.2 ⟨hw, ha, hp⟩)⟩
    case illegal w => exact ⟨_, execIllegal_eq w hw ha⟩
    -- the wire frames are no commands
    all_goals cases hi

/-- Settles O48: a hung block waits, or a stand-alone frame changes one chip beside it. -/
theorem hungBlockAcceptsNothing : Obligations.HungBlockAcceptsNothing := by
  intro s t hh hr e
  obtain ⟨-, ⟨n, hn, -⟩ | ⟨-, hl, chip, -, he⟩ | ⟨-, hl, -, rfl⟩ | ⟨-, -, hh', -⟩⟩ := step_next e
  · exact absurd (hr.symm.trans hn) nofun
  · obtain ⟨act, hact⟩ := exec_frame_next (isCommand_decodeFrame chip.sr) he
    obtain ⟨-, c, old, -, -, rfl⟩ := atLatchedChip_next hact
    exact ⟨hh, rfl, rfl⟩
  · exact ⟨hh, rfl, by rw [← hl]⟩
  · exact absurd (hh.symm.trans hh') (by decide)

end Sys2Proof.Machine
end
